-- ==== Sys2Proof/Word.lean ====
section
/-!
DEFINITION. The machine's word types (10_state R20, R24; 30_encoding R81): a data word is 8 bits, an address and an
instruction word are 16 bits, a register number is 4 bits, a flag or bit number 3 bits.
-/

namespace Sys2Proof

/-- A data word, `XLEN` = 8 bits (10_state R20). -/
abbrev Byte := BitVec 8

/-- A byte address; also the width of `pc` and `sp` (10_state R24, R29). -/
abbrev Addr := BitVec 16

/-- An instruction word (30_encoding R81) and a 16-bit data pair (10_state R22). -/
abbrev Word16 := BitVec 16

/-- A general register number, 0 to 15 (10_state R20). -/
abbrev Reg := BitVec 4

/-- A bit number in an 8-bit register: a flag of `sr` (0 to 6, 10_state R25) or a register bit (0 to 7). -/
abbrev BitNo := BitVec 3

end Sys2Proof
end

