-- ==== Sys2Proof/Syntax.lean ====
section
/-!
DEFINITION. The instructions of profile P0, one constructor per row of spec/opcode_table.json (30_encoding R89), with the
aux fields of the first word, unextended and unscaled (R92). The second word of `JMP` and `CALL` is no field: the spec's
decoder never sees it (R81, R92; log 17).
-/

namespace Sys2Proof

/-- An operation tag with its aux fields (30_encoding R86 to R89, R92). -/
inductive Instr where
  -- 42_shift_flag R179; 45_system R227, R220; 43_control R190
  | nop
  | brk
  | ret
  | trap (k : Byte)
  -- 42_shift_flag R177, R178
  | sef (b : BitNo)
  | clf (b : BitNo)
  -- 43_control R188, R189
  | jmp
  | call
  -- 44_loadstore R209, R210
  | push (r : Reg)
  | pop (d : Reg)
  -- 42_shift_flag R172 to R176
  | lsl (d : Reg)
  | lsr (d : Reg)
  | asr (d : Reg)
  | rol (d : Reg)
  | ror (d : Reg)
  -- 43_control R193, R194
  | sbrc (b : BitNo) (r : Reg)
  | sbrs (b : BitNo) (r : Reg)
  -- 41_alu R144 to R152
  | add (d r : Reg)
  | adc (d r : Reg)
  | sub (d r : Reg)
  | sbc (d r : Reg)
  | cp (d r : Reg)
  | and (d r : Reg)
  | or (d r : Reg)
  | xor (d r : Reg)
  | mov (d r : Reg)
  -- 43_control R192
  | cpse (d r : Reg)
  -- 44_loadstore R205 to R208; the second register is the even register of the address pair
  | ldb (d r : Reg)
  | stb (d r : Reg)
  | ldw (d r : Reg)
  | stw (d r : Reg)
  -- 41_alu R153 to R158
  | ldi (d : Reg) (k : Byte)
  | addi (d : Reg) (k : Byte)
  | subi (d : Reg) (k : Byte)
  | cpi (d : Reg) (k : Byte)
  | andi (d : Reg) (k : Byte)
  | ori (d : Reg) (k : Byte)
  -- 43_control R185 to R187
  | rjmp (k : BitVec 12)
  | brbc (b : BitNo) (k : Byte)
  | brbs (b : BitNo) (k : Byte)
deriving DecidableEq, Repr

/-- What `decode` gives for a word: an instruction, or the distinguished tag `ILLEGAL` (30_encoding R84, R98). -/
inductive Decoded where
  | legal (i : Instr)
  | illegal
deriving DecidableEq, Repr

/-- `width(tag)` in instruction words: 2 for `JMP` and `CALL`, else 1, `ILLEGAL` included (30_encoding R80, R81). -/
def Decoded.width : Decoded → Nat
  | .legal .jmp => 2
  | .legal .call => 2
  | _ => 1

end Sys2Proof
end

