-- ==== Sys2Proof/WellFormed.lean ====
section
/-!
DEFINITION. Which terms of `Instr` are instructions: a flag field never names bit 7 of `sr` (30_encoding R86, R88), and a
field that names a register pair holds an even number (R87).
-/

namespace Sys2Proof

/-- A flag number that an instruction may name: 0 to 6 (10_state R27). -/
def flagNumberOk (b : BitNo) : Bool := b != 7#3

/-- A register number that names a pair: an even one (10_state R22). -/
def pairNumberOk (r : Reg) : Bool := !r.getLsbD 0

/-- The instruction's fields are ones some word encodes (30_encoding R86 to R88, R93 cases 3, 10, 11, 12). -/
def Instr.wf : Instr → Bool
  | .sef b => flagNumberOk b
  | .clf b => flagNumberOk b
  | .brbc b _ => flagNumberOk b
  | .brbs b _ => flagNumberOk b
  | .ldb _ r => pairNumberOk r
  | .stb _ r => pairNumberOk r
  | .ldw d r => pairNumberOk d && pairNumberOk r
  | .stw d r => pairNumberOk d && pairNumberOk r
  | .nop => true
  | .brk => true
  | .ret => true
  | .trap _ => true
  | .jmp => true
  | .call => true
  | .push _ => true
  | .pop _ => true
  | .lsl _ => true
  | .lsr _ => true
  | .asr _ => true
  | .rol _ => true
  | .ror _ => true
  | .sbrc _ _ => true
  | .sbrs _ _ => true
  | .add _ _ => true
  | .adc _ _ => true
  | .sub _ _ => true
  | .sbc _ _ => true
  | .cp _ _ => true
  | .and _ _ => true
  | .or _ _ => true
  | .xor _ _ => true
  | .mov _ _ => true
  | .cpse _ _ => true
  | .ldi _ _ => true
  | .addi _ _ => true
  | .subi _ _ => true
  | .cpi _ _ => true
  | .andi _ _ => true
  | .ori _ _ => true
  | .rjmp _ => true

end Sys2Proof
end

