-- ==== Sys2Proof/Decode.lean ====
section
/-!
DEFINITION. The decoder (30_encoding R84 to R89, R93, R98), total on every 16-bit word; the encoder; the opcode list of
R89 as match, mask and constraint; and the reading of a table word.
-/

namespace Sys2Proof

/-! ## Fields of a first word (30_encoding R82) -/

/-- The major opcode `w[15:12]`. -/
def fieldMajor (w : Word16) : BitVec 4 := w.extractLsb' 12 4
/-- `w[11:8]`: `sub4` in major 0, `fn4` of format R, `d` of format I. -/
def fieldHi (w : Word16) : BitVec 4 := w.extractLsb' 8 4
/-- `w[7:4]`: `fn4` of format U, `d` of format R. -/
def fieldMid (w : Word16) : BitVec 4 := w.extractLsb' 4 4
/-- `w[3:0]`: `s` or `r`. -/
def fieldLo (w : Word16) : BitVec 4 := w.extractLsb' 0 4
/-- `w[7:0]`: `fn8` or `k8`. -/
def fieldK8 (w : Word16) : Byte := w.extractLsb' 0 8
/-- `w[11:0]`: `k12`. -/
def fieldK12 (w : Word16) : BitVec 12 := w.extractLsb' 0 12
/-- `w[2:0]`: `b` of format F. -/
def fieldFlagF (w : Word16) : BitNo := w.extractLsb' 0 3
/-- `w[7:3]`: the bits of format F that must be zero. -/
def fieldZeroF (w : Word16) : BitVec 5 := w.extractLsb' 3 5
/-- `w[6:4]`: `b` of format B. -/
def fieldBitB (w : Word16) : BitNo := w.extractLsb' 4 3
/-- `w[10:8]`: `b` of format C. -/
def fieldFlagC (w : Word16) : BitNo := w.extractLsb' 8 3

/-! ## The opcode map -/

/-- `i` where `ok` holds, else `ILLEGAL` (30_encoding R86: "Where the legal when condition fails the word is
`ILLEGAL`"). -/
def legalIf (ok : Bool) (i : Instr) : Decoded := if ok then .legal i else .illegal

/-- Format Z, by `fn8` (30_encoding R86, sub4 0x0). -/
def decodeFormatZ (w : Word16) : Decoded :=
  match fieldK8 w with
  | 0x01#8 => .legal .nop
  | 0x02#8 => .legal .brk
  | 0x03#8 => .legal .ret
  | _ => .illegal

/-- Format U, stack group, by `fn4` (30_encoding R86, sub4 0x6). -/
def decodeStack (w : Word16) : Decoded :=
  match fieldMid w with
  | 0x0#4 => .legal (.push (fieldLo w))
  | 0x1#4 => .legal (.pop (fieldLo w))
  | _ => .illegal

/-- Format U, shift group, by `fn4` (30_encoding R86, sub4 0x7). -/
def decodeShift (w : Word16) : Decoded :=
  match fieldMid w with
  | 0x0#4 => .legal (.lsl (fieldLo w))
  | 0x1#4 => .legal (.lsr (fieldLo w))
  | 0x2#4 => .legal (.asr (fieldLo w))
  | 0x3#4 => .legal (.rol (fieldLo w))
  | 0x4#4 => .legal (.ror (fieldLo w))
  | _ => .illegal

/-- Major 0x0, by `sub4` (30_encoding R86). -/
def decodeMajor0 (w : Word16) : Decoded :=
  match fieldHi w with
  | 0x0#4 => decodeFormatZ w
  | 0x1#4 => .legal (.trap (fieldK8 w))
  | 0x2#4 => legalIf (fieldZeroF w == 0#5 && flagNumberOk (fieldFlagF w)) (.sef (fieldFlagF w))
  | 0x3#4 => legalIf (fieldZeroF w == 0#5 && flagNumberOk (fieldFlagF w)) (.clf (fieldFlagF w))
  | 0x4#4 => legalIf (fieldK8 w == 0#8) .jmp
  | 0x5#4 => legalIf (fieldK8 w == 0#8) .call
  | 0x6#4 => decodeStack w
  | 0x7#4 => decodeShift w
  | 0x8#4 => legalIf (!w.getLsbD 7) (.sbrc (fieldBitB w) (fieldLo w))
  | 0x9#4 => legalIf (!w.getLsbD 7) (.sbrs (fieldBitB w) (fieldLo w))
  | _ => .illegal

/-- Major 0x1, format R, by `fn4` (30_encoding R87). -/
def decodeMajor1 (w : Word16) : Decoded :=
  match fieldHi w with
  | 0x0#4 => .legal (.add (fieldMid w) (fieldLo w))
  | 0x1#4 => .legal (.adc (fieldMid w) (fieldLo w))
  | 0x2#4 => .legal (.sub (fieldMid w) (fieldLo w))
  | 0x3#4 => .legal (.sbc (fieldMid w) (fieldLo w))
  | 0x4#4 => .legal (.cp (fieldMid w) (fieldLo w))
  | 0x5#4 => .legal (.and (fieldMid w) (fieldLo w))
  | 0x6#4 => .legal (.or (fieldMid w) (fieldLo w))
  | 0x7#4 => .legal (.xor (fieldMid w) (fieldLo w))
  | 0x8#4 => .legal (.mov (fieldMid w) (fieldLo w))
  | 0x9#4 => .legal (.cpse (fieldMid w) (fieldLo w))
  | 0xA#4 => legalIf (pairNumberOk (fieldLo w)) (.ldb (fieldMid w) (fieldLo w))
  | 0xB#4 => legalIf (pairNumberOk (fieldLo w)) (.stb (fieldMid w) (fieldLo w))
  | 0xC#4 => legalIf (pairNumberOk (fieldMid w) && pairNumberOk (fieldLo w)) (.ldw (fieldMid w) (fieldLo w))
  | 0xD#4 => legalIf (pairNumberOk (fieldMid w) && pairNumberOk (fieldLo w)) (.stw (fieldMid w) (fieldLo w))
  | _ => .illegal

/-- Major 0xE, format C, by `t` = `w[11]` (30_encoding R88). -/
def decodeMajorE (w : Word16) : Decoded :=
  legalIf (flagNumberOk (fieldFlagC w))
    (if w.getLsbD 11 then .brbs (fieldFlagC w) (fieldK8 w) else .brbc (fieldFlagC w) (fieldK8 w))

/-- `decode(w)` (30_encoding R84): a pure function of the 16 bits, by the major opcode (R85, R88). -/
def decode (w : Word16) : Decoded :=
  match fieldMajor w with
  | 0x0#4 => decodeMajor0 w
  | 0x1#4 => decodeMajor1 w
  | 0x2#4 => .legal (.ldi (fieldHi w) (fieldK8 w))
  | 0x3#4 => .legal (.addi (fieldHi w) (fieldK8 w))
  | 0x4#4 => .legal (.subi (fieldHi w) (fieldK8 w))
  | 0x5#4 => .legal (.cpi (fieldHi w) (fieldK8 w))
  | 0x6#4 => .legal (.andi (fieldHi w) (fieldK8 w))
  | 0x7#4 => .legal (.ori (fieldHi w) (fieldK8 w))
  | 0xC#4 => .legal (.rjmp (fieldK12 w))
  | 0xE#4 => decodeMajorE w
  | _ => .illegal

/-! ## The encoder -/

/-- Format Z: `0000 0000 fn8` (30_encoding R82). -/
def formatZ (fn8 : BitVec 8) : Word16 := 0x00#8 ++ fn8
/-- Format T: `0000 0001 k8`. -/
def formatT (k : BitVec 8) : Word16 := 0x01#8 ++ k
/-- Format F: `0000 sub4 00000 b`. -/
def formatF (sub4 : BitVec 4) (b : BitNo) : Word16 := 0x0#4 ++ sub4 ++ 0#5 ++ b
/-- Format L, first word: `0000 sub4 00000000`. -/
def formatL (sub4 : BitVec 4) : Word16 := 0x0#4 ++ sub4 ++ 0x00#8
/-- Format U: `0000 sub4 fn4 r`. -/
def formatU (sub4 fn4 : BitVec 4) (r : Reg) : Word16 := 0x0#4 ++ sub4 ++ fn4 ++ r
/-- Format B: `0000 sub4 0 b s`. -/
def formatB (sub4 : BitVec 4) (b : BitNo) (r : Reg) : Word16 := 0x0#4 ++ sub4 ++ 0#1 ++ b ++ r
/-- Format R: `0001 fn4 d s`. -/
def formatR (fn4 : BitVec 4) (d r : Reg) : Word16 := 0x1#4 ++ fn4 ++ d ++ r
/-- Format I: `maj4 d k8`. -/
def formatI (maj4 : BitVec 4) (d : Reg) (k : Byte) : Word16 := maj4 ++ d ++ k
/-- Format J: `1100 k12`. -/
def formatJ (k : BitVec 12) : Word16 := 0xC#4 ++ k
/-- Format C: `1110 t b k8`. -/
def formatC (t : BitVec 1) (b : BitNo) (k : Byte) : Word16 := 0xE#4 ++ t ++ b ++ k

/-- The first word of an instruction, by the formats of 30_encoding R82 and the codes of R85 to R88. -/
def encode : Instr → Word16
  | .nop => formatZ 0x01#8
  | .brk => formatZ 0x02#8
  | .ret => formatZ 0x03#8
  | .trap k => formatT k
  | .sef b => formatF 0x2#4 b
  | .clf b => formatF 0x3#4 b
  | .jmp => formatL 0x4#4
  | .call => formatL 0x5#4
  | .push r => formatU 0x6#4 0x0#4 r
  | .pop d => formatU 0x6#4 0x1#4 d
  | .lsl d => formatU 0x7#4 0x0#4 d
  | .lsr d => formatU 0x7#4 0x1#4 d
  | .asr d => formatU 0x7#4 0x2#4 d
  | .rol d => formatU 0x7#4 0x3#4 d
  | .ror d => formatU 0x7#4 0x4#4 d
  | .sbrc b r => formatB 0x8#4 b r
  | .sbrs b r => formatB 0x9#4 b r
  | .add d r => formatR 0x0#4 d r
  | .adc d r => formatR 0x1#4 d r
  | .sub d r => formatR 0x2#4 d r
  | .sbc d r => formatR 0x3#4 d r
  | .cp d r => formatR 0x4#4 d r
  | .and d r => formatR 0x5#4 d r
  | .or d r => formatR 0x6#4 d r
  | .xor d r => formatR 0x7#4 d r
  | .mov d r => formatR 0x8#4 d r
  | .cpse d r => formatR 0x9#4 d r
  | .ldb d r => formatR 0xA#4 d r
  | .stb d r => formatR 0xB#4 d r
  | .ldw d r => formatR 0xC#4 d r
  | .stw d r => formatR 0xD#4 d r
  | .ldi d k => formatI 0x2#4 d k
  | .addi d k => formatI 0x3#4 d k
  | .subi d k => formatI 0x4#4 d k
  | .cpi d k => formatI 0x5#4 d k
  | .andi d k => formatI 0x6#4 d k
  | .ori d k => formatI 0x7#4 d k
  | .rjmp k => formatJ k
  | .brbc b k => formatC 0#1 b k
  | .brbs b k => formatC 1#1 b k

/-! ## The opcode list of 30_encoding R89 -/

/-- One row: `w` selects it when `w & mask = value` and its constraint holds; `flagAt` is the lowest bit of a flag field
that must not be 7, where the row has one. -/
structure OpcodeRow where
  mnemonic : String
  value    : Word16
  mask     : Word16
  flagAt   : Option Nat
deriving DecidableEq, Repr

/-- The constraint of a row: the flag field is not 7 (the only one a mask cannot express, 30_encoding R89). -/
def OpcodeRow.constraintOk (row : OpcodeRow) (w : Word16) : Bool :=
  match row.flagAt with
  | none => true
  | some n => w.extractLsb' n 3 != 7#3

/-- "A word w selects the row when `w & mask = match` and the row's constraint holds" (30_encoding R89). -/
def OpcodeRow.selects (row : OpcodeRow) (w : Word16) : Bool :=
  w &&& row.mask == row.value && row.constraintOk w

/-- The row of an instruction (30_encoding R89). -/
def rowOf : Instr → OpcodeRow
  | .nop => ⟨"NOP", 0x0001#16, 0xFFFF#16, none⟩
  | .brk => ⟨"BREAK", 0x0002#16, 0xFFFF#16, none⟩
  | .ret => ⟨"RET", 0x0003#16, 0xFFFF#16, none⟩
  | .trap _ => ⟨"TRAP", 0x0100#16, 0xFF00#16, none⟩
  | .sef _ => ⟨"SEF", 0x0200#16, 0xFFF8#16, some 0⟩
  | .clf _ => ⟨"CLF", 0x0300#16, 0xFFF8#16, some 0⟩
  | .jmp => ⟨"JMP", 0x0400#16, 0xFFFF#16, none⟩
  | .call => ⟨"CALL", 0x0500#16, 0xFFFF#16, none⟩
  | .push _ => ⟨"PUSH", 0x0600#16, 0xFFF0#16, none⟩
  | .pop _ => ⟨"POP", 0x0610#16, 0xFFF0#16, none⟩
  | .lsl _ => ⟨"LSL", 0x0700#16, 0xFFF0#16, none⟩
  | .lsr _ => ⟨"LSR", 0x0710#16, 0xFFF0#16, none⟩
  | .asr _ => ⟨"ASR", 0x0720#16, 0xFFF0#16, none⟩
  | .rol _ => ⟨"ROL", 0x0730#16, 0xFFF0#16, none⟩
  | .ror _ => ⟨"ROR", 0x0740#16, 0xFFF0#16, none⟩
  | .sbrc _ _ => ⟨"SBRC", 0x0800#16, 0xFF80#16, none⟩
  | .sbrs _ _ => ⟨"SBRS", 0x0900#16, 0xFF80#16, none⟩
  | .add _ _ => ⟨"ADD", 0x1000#16, 0xFF00#16, none⟩
  | .adc _ _ => ⟨"ADC", 0x1100#16, 0xFF00#16, none⟩
  | .sub _ _ => ⟨"SUB", 0x1200#16, 0xFF00#16, none⟩
  | .sbc _ _ => ⟨"SBC", 0x1300#16, 0xFF00#16, none⟩
  | .cp _ _ => ⟨"CP", 0x1400#16, 0xFF00#16, none⟩
  | .and _ _ => ⟨"AND", 0x1500#16, 0xFF00#16, none⟩
  | .or _ _ => ⟨"OR", 0x1600#16, 0xFF00#16, none⟩
  | .xor _ _ => ⟨"XOR", 0x1700#16, 0xFF00#16, none⟩
  | .mov _ _ => ⟨"MOV", 0x1800#16, 0xFF00#16, none⟩
  | .cpse _ _ => ⟨"CPSE", 0x1900#16, 0xFF00#16, none⟩
  | .ldb _ _ => ⟨"LDB", 0x1A00#16, 0xFF01#16, none⟩
  | .stb _ _ => ⟨"STB", 0x1B00#16, 0xFF01#16, none⟩
  | .ldw _ _ => ⟨"LDW", 0x1C00#16, 0xFF11#16, none⟩
  | .stw _ _ => ⟨"STW", 0x1D00#16, 0xFF11#16, none⟩
  | .ldi _ _ => ⟨"LDI", 0x2000#16, 0xF000#16, none⟩
  | .addi _ _ => ⟨"ADDI", 0x3000#16, 0xF000#16, none⟩
  | .subi _ _ => ⟨"SUBI", 0x4000#16, 0xF000#16, none⟩
  | .cpi _ _ => ⟨"CPI", 0x5000#16, 0xF000#16, none⟩
  | .andi _ _ => ⟨"ANDI", 0x6000#16, 0xF000#16, none⟩
  | .ori _ _ => ⟨"ORI", 0x7000#16, 0xF000#16, none⟩
  | .rjmp _ => ⟨"RJMP", 0xC000#16, 0xF000#16, none⟩
  | .brbc _ _ => ⟨"BRBC", 0xE000#16, 0xF800#16, some 8⟩
  | .brbs _ _ => ⟨"BRBS", 0xE800#16, 0xF800#16, some 8⟩

/-! ## Words as bytes -/

/-- The 16-bit value whose byte at the lower address (or in the even register) is `lo` and whose other byte is `hi`
(30_encoding R81, 20_memory R52, 10_state R22). -/
def wordOfBytes (lo hi : Byte) : Word16 := hi ++ lo

/-- Byte `j` of an instruction numbered as spec/opcode_table.json numbers its bits, the bits from `nbits` on being 0:
little-endian words lie byte by byte in that order. -/
def tableByte (nbits w j : Nat) : Byte := BitVec.ofNat 8 (w % 2 ^ nbits / 256 ^ j)

/-- What the decoder reads from the first word of an instruction whose bits are `w` (the host's question). -/
def decodeTableWord (nbits w : Nat) : Option Instr :=
  match decode (wordOfBytes (tableByte nbits w 0) (tableByte nbits w 1)) with
  | .legal i => some i
  | .illegal => none

end Sys2Proof
end

