-- ==== Sys2Proof/Config.lean ====
section
/-!
DEFINITION. The configuration: the parameters of 00_scope R6 as named fields of one record, with profile P0's values; and
the free values (what the spec leaves to the host, as constants without a body). The machine reads the layouts, numbers and
tables from the record; the widths, the one bank, the one address space and the byte order are also in its types (Word.lean)
and in `wordOfBytes` and `State.readLE`. The one parameter that is no field of the record is `POLL_INTERVAL`, which P0 leaves
open (D32): it is the field `env.pollInterval` of the state (log 2).
-/

namespace Sys2Proof.Config

/-- The numeric stop codes (60_exceptions R251). -/
structure StopCodes where
  sigint  : Nat
  sigill  : Nat
  sigtrap : Nat
  sigbus  : Nat
deriving DecidableEq, Repr

/-- How a multi-byte value lies in memory (20_memory R52). -/
inductive ByteOrder where
  | little
  | big
deriving DecidableEq, Repr

/-- `PC_ENCODING`: how the stored `pc` relates to the fetch address (10_state R24). -/
inductive PcEncoding where
  | identity
deriving DecidableEq, Repr

/-- `SR_LAYOUT`: the bit position of each flag in `sr` (10_state R25), and of the reserved bit (R27). -/
structure SrLayout where
  zero            : BitNo
  carry           : BitNo
  negative        : BitNo
  overflow        : BitNo
  sign            : BitNo
  halfCarry       : BitNo
  interruptEnable : BitNo
  reserved        : BitNo
deriving DecidableEq, Repr

/-- `TRAP_ABI`: the assigned trap codes (45_system R220) and the register convention (R221). A pair is named by its even
register. -/
structure TrapAbi where
  exitCode       : Byte
  writeCode      : Byte
  readCode       : Byte
  fileDescriptor : Reg
  exitStatus     : Reg
  bufferPair     : Reg
  lengthPair     : Reg
  resultPair     : Reg
  errorCode      : Reg
  failureResult  : Word16
  noError        : Byte
deriving DecidableEq, Repr

/-- `REGNUM`: the harness's register numbering; the general registers are the numbers below `general` (80_host R312). -/
structure RegNum where
  general : Nat
  sr      : Nat
  sp      : Nat
  pc      : Nat
deriving DecidableEq, Repr

/-- The parameters of 00_scope R6, in its order, but `POLL_INTERVAL`. -/
structure Profile where
  xlen           : Nat
  nreg           : Nat
  banks          : Nat
  pcBits         : Nat
  pcEncoding     : PcEncoding
  spBits         : Nat
  srLayout       : SrLayout
  splitSpaces    : Bool
  memSize        : Nat
  addrMask       : Nat
  byteOrder      : ByteOrder
  enforceAlign   : Bool
  memInit        : Byte
  specialRegions : List (Nat × Nat)
  iword          : Nat
  opcodeMap      : Word16 → Decoded
  trapAbi        : TrapAbi
  stopCodes      : StopCodes
  machineType    : Nat
  regNum         : RegNum

/-- Reference profile P0 (00_scope R6). -/
@[reducible] def p0 : Profile where
  xlen := 8
  nreg := 16
  banks := 1
  pcBits := 16
  pcEncoding := .identity
  spBits := 16
  srLayout :=
    { zero := 0#3, carry := 1#3, negative := 2#3, overflow := 3#3, sign := 4#3, halfCarry := 5#3
      interruptEnable := 6#3, reserved := 7#3 }
  splitSpaces := false
  memSize := 65536
  addrMask := 0xFFFF
  byteOrder := .little
  enforceAlign := true
  memInit := 0#8
  specialRegions := []
  iword := 2
  opcodeMap := decode
  trapAbi :=
    { exitCode := 0#8, writeCode := 1#8, readCode := 2#8, fileDescriptor := 0#4, exitStatus := 0#4, bufferPair := 2#4
      lengthPair := 4#4, resultPair := 0#4, errorCode := 6#4, failureResult := 0xFFFF#16, noError := 0x00#8 }
  stopCodes := { sigint := 2, sigill := 4, sigtrap := 5, sigbus := 10 }
  machineType := 0
  regNum := { general := 16, sr := 16, sp := 17, pc := 18 }

/-- The value `POLL_INTERVAL` has at `State.reset`. DESIGN CHOICE (log 2): the spec leaves it open (D32); no statement
rests on it. -/
@[reducible] def resetPollInterval : Nat := 1024

/-- FREE VALUE (log 4): the host's answer to `write(fd, data)` where no answer is given in the environment; a count of
at most the length, or a failure with its errno (45_system R224, 93 U5 and U6). `call` is how many host calls came
before. -/
opaque freeWriteAnswer (call : Nat) (fd : Byte) (data : List Byte) : Fin (data.length + 1) ⊕ Byte

/-- FREE VALUE (log 4): the host's answer to `read(fd, len)` where no answer is given in the environment: bytes, of
which at most `len` count, or a failure with its errno (45_system R225, 93 U5 and U6). -/
opaque freeReadAnswer (call : Nat) (fd : Byte) (len : Nat) : List Byte ⊕ Byte

/-- FREE VALUE (log 6): the host's answer to `poll_quit()` where none is given in the environment (40_pipeline R120,
93 U8). -/
opaque freePollQuit (call : Nat) : Bool

end Sys2Proof.Config
end

