-- ==== Sys2Proof/Machine/Flags.lean ====
section
/-!
DEFINITION. The status register's flags and the flag and arithmetic evaluator: the pure functions AddEval, SubEval, LogicEval
and ShiftEval of 41_alu R140 to R143 and 42_shift_flag R171, by the spec's own boolean formulas.
-/

namespace Sys2Proof.Machine

/-! ## Flag positions (10_state R25, `SR_LAYOUT`) -/

/-- Zero, bit 0. -/
abbrev flagZ : BitNo := Config.p0.srLayout.zero
/-- Carry, bit 1. -/
abbrev flagC : BitNo := Config.p0.srLayout.carry
/-- Negative, bit 2. -/
abbrev flagN : BitNo := Config.p0.srLayout.negative
/-- Overflow, bit 3. -/
abbrev flagV : BitNo := Config.p0.srLayout.overflow
/-- Sign, bit 4. -/
abbrev flagS : BitNo := Config.p0.srLayout.sign
/-- Half-carry, bit 5. -/
abbrev flagH : BitNo := Config.p0.srLayout.halfCarry
/-- Interrupt-enable, bit 6: storage only (10_state R28). -/
abbrev flagI : BitNo := Config.p0.srLayout.interruptEnable
/-- The reserved bit 7 (10_state R27). -/
abbrev srReserved : BitNo := Config.p0.srLayout.reserved

/-- `sr[b]`. -/
def getFlag (sr : Byte) (b : BitNo) : Bool := sr.getLsbD b.toNat

/-- `sr` with bit `b` being `v`. -/
def putFlag (sr : Byte) (b : BitNo) (v : Bool) : Byte :=
  if v then sr ||| (1#8 <<< b.toNat) else sr &&& ~~~(1#8 <<< b.toNat)

/-! ## The evaluator -/

/-- A flag as an addend: 1 where it is set. -/
def carryByte (c : Bool) : Byte := if c then 1#8 else 0#8

/-- Z, N, V and S in `sr`: Z and N from the result, V as given, S = N ^ V (10_state R25). -/
def putZNVS (sr r : Byte) (v : Bool) : Byte :=
  putFlag (putFlag (putFlag (putFlag sr flagZ (r == 0#8)) flagN (r.getLsbD 7)) flagV v) flagS (r.getLsbD 7 ^^ v)

/-- The carry out of bit `i` of an addition `r = a + b + cin` (41_alu R141). -/
def carryOut (a b r : Byte) (i : Nat) : Bool :=
  (a.getLsbD i && b.getLsbD i) || (b.getLsbD i && !r.getLsbD i) || (!r.getLsbD i && a.getLsbD i)

/-- The borrow into bit `i` of a subtraction `r = a - b - bin` (41_alu R142). -/
def borrowOut (a b r : Byte) (i : Nat) : Bool :=
  (!a.getLsbD i && b.getLsbD i) || (b.getLsbD i && r.getLsbD i) || (r.getLsbD i && !a.getLsbD i)

/-- Signed overflow of an addition (41_alu R141). -/
def addOverflow (a b r : Byte) : Bool :=
  (a.getLsbD 7 && b.getLsbD 7 && !r.getLsbD 7) || (!a.getLsbD 7 && !b.getLsbD 7 && r.getLsbD 7)

/-- Signed overflow of a subtraction (41_alu R142). -/
def subOverflow (a b r : Byte) : Bool :=
  (a.getLsbD 7 && !b.getLsbD 7 && !r.getLsbD 7) || (!a.getLsbD 7 && b.getLsbD 7 && r.getLsbD 7)

/-- The result of `AddEval` (41_alu R141): `(a + b + cin) mod 256`. -/
def addResult (a b : Byte) (cin : Bool) : Byte := a + b + carryByte cin

/-- The new `sr` of `AddEval` (41_alu R141); I and bit 7 unchanged. -/
def addFlags (a b : Byte) (cin : Bool) (sr : Byte) : Byte :=
  let r := addResult a b cin
  putZNVS (putFlag (putFlag sr flagH (carryOut a b r 3)) flagC (carryOut a b r 7)) r (addOverflow a b r)

/-- The result of `SubEval` (41_alu R142): `(a - b - bin) mod 256`. -/
def subResult (a b : Byte) (bin : Bool) : Byte := a - b - carryByte bin

/-- The new `sr` of `SubEval` (41_alu R142); I and bit 7 unchanged. -/
def subFlags (a b : Byte) (bin : Bool) (sr : Byte) : Byte :=
  let r := subResult a b bin
  putZNVS (putFlag (putFlag sr flagH (borrowOut a b r 3)) flagC (borrowOut a b r 7)) r (subOverflow a b r)

/-- `LogicEval(r, sr)` (41_alu R143): V cleared, C, H, I and bit 7 unchanged. -/
def logicFlags (r sr : Byte) : Byte := putZNVS sr r false

/-- The five shifts (42_shift_flag R171). -/
inductive ShiftOp where
  | lsl
  | lsr
  | asr
  | rol
  | ror
deriving DecidableEq, Repr

/-- The result of `ShiftEval` (42_shift_flag R171); the incoming carry matters to `rol` and `ror` only. -/
def shiftResult (op : ShiftOp) (a : Byte) (cin : Bool) : Byte :=
  match op with
  | .lsl => a.extractLsb' 0 7 ++ 0#1
  | .lsr => 0#1 ++ a.extractLsb' 1 7
  | .asr => a.extractLsb' 7 1 ++ a.extractLsb' 1 7
  | .rol => a.extractLsb' 0 7 ++ BitVec.ofBool cin
  | .ror => BitVec.ofBool cin ++ a.extractLsb' 1 7

/-- The bit shifted out, the new C (42_shift_flag R171). -/
def shiftedOut (op : ShiftOp) (a : Byte) : Bool :=
  match op with
  | .lsl => a.getLsbD 7
  | .lsr => a.getLsbD 0
  | .asr => a.getLsbD 0
  | .rol => a.getLsbD 7
  | .ror => a.getLsbD 0

/-- The new `sr` of `ShiftEval` (42_shift_flag R171): V = N ^ C, S = N ^ V; H, I and bit 7 unchanged. -/
def shiftFlags (op : ShiftOp) (a sr : Byte) : Byte :=
  let r := shiftResult op a (getFlag sr flagC)
  let c := shiftedOut op a
  putZNVS (putFlag sr flagC c) r (r.getLsbD 7 ^^ c)

end Sys2Proof.Machine
end

