-- ==== Sys2Proof/Machine/Memory.lean ====
section
/-!
DEFINITION. Tables keyed by a natural number, held as lists in one canonical form, and the memory image made of one: the
65536 bytes of 10_state R31 as (address, byte) pairs, an unlisted address reading `MEM_INIT` = 0x00 (R39, decision D9; log 10).
-/

namespace Sys2Proof.Machine

/-! ## Sparse tables -/

/-- The entry of key `a`, if any. -/
def tableFind {α : Type} : List (Nat × α) → Nat → Option α
  | [], _ => none
  | (k, v) :: t, a => if a = k then some v else tableFind t a

/-- `t` with the entry of key `a` being `v`, placed where the keys stay in rising order. -/
def tableInsert {α : Type} : List (Nat × α) → Nat → α → List (Nat × α)
  | [], a, v => [(a, v)]
  | (k, w) :: t, a, v =>
    if a < k then (a, v) :: (k, w) :: t
    else if a = k then (a, v) :: t
    else (k, w) :: tableInsert t a v

/-- `t` without any entry of key `a`. -/
def tableErase {α : Type} : List (Nat × α) → Nat → List (Nat × α)
  | [], _ => []
  | (k, w) :: t, a => if a = k then tableErase t a else (k, w) :: tableErase t a

/-- The keys rise strictly. -/
abbrev TableSorted {α : Type} (t : List (Nat × α)) : Prop := t.Pairwise (fun p q => p.1 < q.1)

/-! ## The memory image -/

/-- The memory image (10_state R31). -/
abbrev Memory := List Host.Cell

/-- The byte at an address; an unlisted address reads `MEM_INIT` (20_memory R53, 10_state R39). -/
def Memory.read (m : Memory) (a : Addr) : Byte := (tableFind m a.toNat).getD Config.p0.memInit

/-- The image with one byte written; writing what an unlisted address reads as takes the entry out. -/
def Memory.write (m : Memory) (a : Addr) (v : Byte) : Memory :=
  if v = Config.p0.memInit then tableErase m a.toNat else tableInsert m a.toNat v

/-- The canonical form: addresses strictly rising and inside `MEM_SIZE`, no entry equal to `MEM_INIT`. -/
abbrev Memory.wf (m : Memory) : Prop :=
  TableSorted m ∧ ∀ c ∈ m, c.1 < Config.p0.memSize ∧ c.2 ≠ Config.p0.memInit

end Sys2Proof.Machine
end

