-- ==== Sys2Proof/Machine/State.lean ====
section
/-!
DEFINITION. The state of the core: the context record of 10_state section 1, field by field, and one field `env` of the
model's own that holds the parameters and inputs of the step relation (10_state R38) as plain data. Faults, refusals and
the state after reset.
-/

namespace Sys2Proof.Machine

/-- The dispatcher's state (10_state R34, 40_pipeline R110). -/
inductive Phase where
  | fetching
  | dispatching
  | halted
deriving DecidableEq, Repr

/-- The reason of a halt record (10_state R35); P0 never produces `signalled` (60_exceptions R246). -/
inductive HaltReason where
  | exited
  | stopped
  | signalled
deriving DecidableEq, Repr

/-- The halt record {reason, code} (10_state R35, 60_exceptions R241). -/
structure HaltRecord where
  reason : HaltReason
  code   : Nat
deriving DecidableEq, Repr

/-- An entry of the decode cache (10_state R32, 40_pipeline R111): the raw word and its tag with aux. -/
structure CacheEntry where
  raw     : Word16
  decoded : Decoded
deriving DecidableEq, Repr

/-- The decode cache: the filled slots, by slot number 0 to 32767 (10_state R32, 40_pipeline R111). -/
abbrev DecodeCache := List (Nat × CacheEntry)

/-- The mode of a `run` call (40_pipeline R112, 80_host R317). -/
inductive RunMode where
  | singleStep
  | continuous
deriving DecidableEq, Repr

/-- A call the harness makes (80_host R310; 70_reset R280, R281). -/
inductive Command where
  | reset
  | resetWithImage (segments : List (Nat × List Byte)) (entry : Nat) (machineType : Nat)
  | load (base : Nat) (bytes : List Byte)
  | registerGet (index : Nat)
  | registerStore (index : Nat) (bytes : List Byte)
  | memoryRead (addr length : Nat)
  | memoryWrite (addr : Nat) (bytes : List Byte)
  | run (mode : RunMode)
  | stopReason
deriving DecidableEq, Repr

/-- What a harness call returns (80_host R312, R316, R319). -/
inductive Reply where
  | bytes (value : List Byte)
  | count (n : Nat)
  | reason (halt : Option HaltRecord)
deriving DecidableEq, Repr

/-- The host's answer to `write`: a count, or failure with the translated errno (45_system R224). -/
inductive WriteAnswer where
  | success (n : Nat)
  | failure (errno : Byte)
deriving DecidableEq, Repr

/-- The host's answer to `read`: the bytes read, or failure with the translated errno (45_system R225). -/
inductive ReadAnswer where
  | success (data : List Byte)
  | failure (errno : Byte)
deriving DecidableEq, Repr

/-- What the harness's event tick is at one boundary: none pending, or one pending that does or does not signal quit
(40_pipeline R120, 80_host R321). -/
inductive Tick where
  | none
  | pending (quit : Bool)
deriving DecidableEq, Repr

/-- A call to the host callback surface, with its arguments (80_host R320, R321). -/
inductive HostCall where
  | write (fd : Byte) (data : List Byte)
  | read (fd : Byte) (length : Nat)
  | pollQuit
  | eventTick
deriving DecidableEq, Repr

/-- What the trace observer is told of a retired instruction (40_pipeline R123, 80_host R324). -/
structure Observation where
  addr  : Addr
  instr : Instr
deriving DecidableEq, Repr

/-- The model's own field: parameters, inputs and outputs of the step relation, which the spec says are no state of the
core (10_state R38) and which a step that is a function of the state finds here (logs 2, 3, 4, 6, 7, 8, 14). -/
structure Environment where
  /-- `POLL_INTERVAL`, the OPEN parameter (00_scope R6, D32; log 2). No step changes it. -/
  pollInterval : Nat
  /-- The mode of the current `run` call (10_state R38; log 3). -/
  mode         : RunMode
  /-- The harness calls to come, in order (log 8). -/
  commands     : List Command
  /-- What the calls returned, newest first (log 8). -/
  replies      : List Reply
  /-- The host's answers to `write` to come (log 4). -/
  writeAnswers : List WriteAnswer
  /-- The host's answers to `read` to come (log 4). -/
  readAnswers  : List ReadAnswer
  /-- The host's answers to `poll_quit` to come (log 6). -/
  pollAnswers  : List Bool
  /-- The event tick at each boundary to come; past the end, none pending (log 7). -/
  ticks        : List Tick
  /-- The host calls made, newest first (log 14). -/
  hostCalls    : List HostCall
  /-- The observer's notifications, newest first (log 14). -/
  observed     : List Observation
deriving DecidableEq, Repr

/-- The context record (10_state section 1) and the environment. -/
structure State where
  /-- `x[0..15]` (10_state R20). -/
  regs        : Vector Byte 16
  /-- The status register: Z=0 C=1 N=2 V=3 S=4 H=5 I=6, bit 7 reserved (10_state R25, R27). -/
  sr          : Byte
  /-- The stack pointer (10_state R29). -/
  sp          : Addr
  /-- The program counter, a byte address (10_state R24). -/
  pc          : Addr
  /-- The memory image (10_state R31). -/
  mem         : Memory
  /-- The decode cache (10_state R32). -/
  icache      : DecodeCache
  /-- The advisory counter (10_state R33). -/
  cycles      : Nat
  /-- The dispatcher's state (10_state R34). -/
  phase       : Phase
  /-- The halt record, if any (10_state R35). -/
  halt        : Option HaltRecord
  /-- `poll_count` (10_state R36). -/
  pollCount   : Nat
  /-- `stop_request` (10_state R36). -/
  stopRequest : Bool
  /-- `loaded` (10_state R37). -/
  loaded      : Bool
  /-- The model's own: parameters, inputs and outputs of the step relation (10_state R38). -/
  env         : Environment
deriving DecidableEq, Repr

/-- The machine has no fault. Every target-level fault is a stop condition, which is a NEXT state that holds a halt record
(40_pipeline R125, 60_exceptions R240 class 1, R241); so nobody raises one, and that is safe (log 18). -/
inductive Fault where
deriving DecidableEq, Repr

/-- Why the model gives a call no meaning. Each is the spec's own `refuse` (93_implementation_defined section 1). -/
inductive Refusal where
  /-- An instruction without a meaning yet, raised by exec's arm; safe. No arm of this model does. -/
  | notModelled (mnemonic : String)
  /-- `register_get` or `register_store` with an index above 18, raised by the harness call (80_host R314, U1); safe: the
  spec says the call has no result. -/
  | invalidRegisterIndex (index : Nat)
  /-- `run` before the memory image is initialised, raised by the harness call (80_host R317, U2); safe. -/
  | runBeforeLoad
  /-- An image descriptor whose machine type is not 0, raised by the harness call (70_reset R281, U3); safe. -/
  | unknownMachineType (machineType : Nat)
  /-- A harness call while a `run` executes, raised by the harness call (80_host R310, U4); safe. -/
  | callDuringRun
  /-- A host answer to `write` or `read` that counts more bytes than were asked for, raised by TRAP 1 and TRAP 2
  (93_implementation_defined U6: outside the contract is `refuse`; log 5); safe: no host within its contract gives it. -/
  | hostAnswerOutsideContract
deriving DecidableEq, Repr

/-- The environment at reset: nothing pending, nothing recorded. `pollInterval` and `mode` are DESIGN CHOICEs (logs 2, 3). -/
def Environment.initial : Environment where
  pollInterval := Config.resetPollInterval
  mode := .continuous
  commands := []
  replies := []
  writeAnswers := []
  readAnswers := []
  pollAnswers := []
  ticks := []
  hostCalls := []
  observed := []

/-- Context creation in a given environment (70_reset R280, 10_state R39): every field of the context record at its reset
value. -/
def State.created (env : Environment) : State where
  regs := Vector.replicate 16 0#8
  sr := 0#8
  sp := 0#16
  pc := 0#16
  mem := []
  icache := []
  cycles := 0
  phase := .halted
  halt := none
  pollCount := env.pollInterval
  stopRequest := false
  loaded := false
  env := env

/-- The machine right after `reset()` (70_reset R280, 10_state R39). -/
def State.reset : State := State.created Environment.initial

end Sys2Proof.Machine
end

