-- ==== Sys2Proof/Machine/Ops.lean ====
section
/-!
DEFINITION. The named operations over registers, memory and the decode cache; stop conditions and the return from one; the
calls to the host.
-/

namespace Sys2Proof.Machine

/-! ## Registers -/

/-- `x[i]` (10_state R20, R21). -/
def State.getReg (s : State) (i : Reg) : Byte := s.regs[i.toNat]'i.isLt

/-- `x[i] <- v` (10_state R20, R21). -/
def State.setReg (s : State) (i : Reg) (v : Byte) : State := { s with regs := s.regs.set i.toNat v i.isLt }

/-- The odd register of the pair whose even register is `i` (10_state R22). -/
def pairHigh (i : Reg) : Reg := i + 1#4

/-- `xp[i] = x[i+1] :: x[i]` (10_state R22). -/
def State.getPair (s : State) (i : Reg) : Word16 := wordOfBytes (s.getReg i) (s.getReg (pairHigh i))

/-- `xp[i] <- v`: `x[i] <- v[7:0]`, then `x[i+1] <- v[15:8]` (00_scope R8). -/
def State.setPair (s : State) (i : Reg) (v : Word16) : State :=
  (s.setReg i (v.extractLsb' 0 8)).setReg (pairHigh i) (v.extractLsb' 8 8)

/-- `sr <- v` (10_state R25, R26). -/
def State.setSr (s : State) (v : Byte) : State := { s with sr := v }

/-- `sp <- v` (10_state R29). -/
def State.setSp (s : State) (v : Addr) : State := { s with sp := v }

/-- The fetch address that a stored `pc` stands for, by `PC_ENCODING` (10_state R24). -/
def pcAddress (stored : Addr) : Addr :=
  match Config.p0.pcEncoding with
  | .identity => stored

/-- What `pc` stores for a fetch address, by `PC_ENCODING` (10_state R24). -/
def pcStored (a : Addr) : Addr :=
  match Config.p0.pcEncoding with
  | .identity => a

/-- `pc_get` (10_state R24): the fetch address. -/
def State.pcGet (s : State) : Addr := pcAddress s.pc

/-- `pc_set`, `pc <- target` (10_state R24). -/
def State.setPc (s : State) (v : Addr) : State := { s with pc := pcStored v }

/-! ## Memory -/

/-- `mask(a) = a & ADDR_MASK` (20_memory R51): an address computed with more bits wraps modulo `MEM_SIZE`. -/
def mask (a : Nat) : Addr := BitVec.ofNat 16 (a &&& Config.p0.addrMask)

/-- Slot `a >> 1` covers the bytes `2i` and `2i+1` (40_pipeline R111). -/
def slotOf (a : Addr) : Nat := a.toNat / Config.p0.iword

/-- `mem[a]`. -/
def State.byteAt (s : State) (a : Addr) : Byte := s.mem.read a

/-- `mem[a] <- v; icache[a >> 1] <- empty`: one byte of `MemWrite` (20_memory R54). A write of width 1 is this alone, and
never raises (R55). -/
def State.storeByte (s : State) (a : Addr) (v : Byte) : State :=
  { s with mem := s.mem.write a v, icache := tableErase s.icache (slotOf a) }

/-- The widths of the access primitive, 1, 2, 4 or 8 bytes (20_memory R50). -/
inductive Width where
  | one
  | two
  | four
  | eight
deriving DecidableEq, Repr

/-- How many bytes an access moves. -/
@[reducible] def Width.bytes : Width → Nat
  | .one => 1
  | .two => 2
  | .four => 4
  | .eight => 8

/-- The alignment check of 20_memory R53, R54, R55. -/
def aligned (a : Addr) (n : Nat) : Bool := !Config.p0.enforceAlign || a.toNat % n == 0

/-- The value of `n` bytes from `a` on, the byte at the lowest address in bits 7:0, byte `j` at `mask(a + j)`
(20_memory R51, R52, R53). -/
def State.readLE (s : State) (a : Addr) : (n : Nat) → BitVec (8 * n)
  | 0 => 0#0
  | n + 1 => s.readLE (a + 1#16) n ++ s.byteAt a

/-- The `n` bytes of `v` stored from `a` on, bits 7:0 at the lowest address, ascending (20_memory R51, R52, R54). -/
def State.writeLE (s : State) (a : Addr) : (n : Nat) → BitVec (8 * n) → State
  | 0, _ => s
  | n + 1, v => (s.storeByte a (v.extractLsb' 0 8)).writeLE (a + 1#16) n (v.extractLsb' 8 (8 * n))

/-- `MemRead(addr, n)` (20_memory R53): `none` is `BusError`. `SPECIAL_REGIONS` is empty in P0 (R59). -/
def State.memRead (s : State) (a : Addr) (n : Width) : Option (BitVec (8 * n.bytes)) :=
  if aligned a n.bytes then some (s.readLE a n.bytes) else none

/-- `MemWrite(addr, n, v)` (20_memory R54): `none` is `BusError`, and then nothing is written and nothing invalidated. -/
def State.memWrite (s : State) (a : Addr) (n : Width) (v : BitVec (8 * n.bytes)) : Option State :=
  if aligned a n.bytes then some (s.writeLE a n.bytes v) else none

/-- The bytes at `a`, `a + 1`, ..., ascending and wrapping (45_system R224, 80_host R316). -/
def State.readBytes (s : State) (a : Addr) : Nat → List Byte
  | 0 => []
  | n + 1 => s.byteAt a :: s.readBytes (a + 1#16) n

/-- Bytes stored from `a` on, ascending and wrapping, each emptying its slot (45_system R225, 80_host R315). -/
def State.writeBytes (s : State) (a : Addr) : List Byte → State
  | [] => s
  | v :: vs => (s.storeByte a v).writeBytes (a + 1#16) vs

/-! ## The fetch path -/

/-- `Fetch(addr)` (40_pipeline R113, R115, R116): `none` is `BusError`; a hit uses the entry, a miss reads, decodes and
fills the slot. -/
def State.fetch (s : State) (a : Addr) : Option (Decoded × State) :=
  if aligned a 2 then
    match tableFind s.icache (slotOf a) with
    | some e => some (e.decoded, s)
    | none =>
      let raw : Word16 := s.readLE a 2
      let decoded := Config.p0.opcodeMap raw
      some (decoded, { s with icache := tableInsert s.icache (slotOf a) ⟨raw, decoded⟩ })
  else none

/-! ## Stop conditions -/

/-- The stop conditions of P0 (60_exceptions R241): the five exceptions of 00_scope R8, the external stop and the step
complete. -/
inductive StopCondition where
  | illegalInstruction
  | busError (a : Addr)
  | breakpoint
  | trapStop (k : Byte)
  | exit (status : Byte)
  | externalStop
  | stepComplete
deriving DecidableEq, Repr

/-- The {reason, code} of a stop condition (60_exceptions R241, R251). Neither the address of a bus error nor the code of
an unassigned trap is recorded. -/
def StopCondition.record : StopCondition → HaltRecord
  | .illegalInstruction => ⟨.stopped, Config.p0.stopCodes.sigill⟩
  | .busError _ => ⟨.stopped, Config.p0.stopCodes.sigbus⟩
  | .breakpoint => ⟨.stopped, Config.p0.stopCodes.sigtrap⟩
  | .trapStop _ => ⟨.stopped, Config.p0.stopCodes.sigtrap⟩
  | .exit status => ⟨.exited, status.toNat⟩
  | .externalStop => ⟨.stopped, Config.p0.stopCodes.sigint⟩
  | .stepComplete => ⟨.stopped, Config.p0.stopCodes.sigtrap⟩

/-- TAKING A STOP: `Halt(reason, code)` sets `halt` and `phase` and nothing else (60_exceptions R241, R247, R252). -/
def State.stop (s : State) (c : StopCondition) : State := { s with halt := some c.record, phase := .halted }

/-- THE RETURN FROM A STOP, `RunEntry()`: the harness enters `run` again, which clears `halt`, sets `phase` to FETCHING and
changes nothing else of the context (40_pipeline R121, 60_exceptions R253). -/
def State.runEntry (s : State) (mode : RunMode) : State :=
  { s with halt := none, phase := .fetching, env := { s.env with mode := mode } }

/-! ## Calls to the host -/

/-- `host.write(fd, data)`: the answer of the environment, or a free one (45_system R222, R224; log 4). -/
def State.writeAnswer (s : State) (fd : Byte) (data : List Byte) : WriteAnswer :=
  match s.env.writeAnswers with
  | ans :: _ => ans
  | [] =>
    match Config.freeWriteAnswer s.env.hostCalls.length fd data with
    | .inl n => .success n.val
    | .inr e => .failure e

/-- `host.read(fd, len)`: the answer of the environment, or a free one (45_system R222, R225; log 4). -/
def State.readAnswer (s : State) (fd : Byte) (len : Nat) : ReadAnswer :=
  match s.env.readAnswers with
  | ans :: _ => ans
  | [] =>
    match Config.freeReadAnswer s.env.hostCalls.length fd len with
    | .inl data => .success (data.take len)
    | .inr e => .failure e

/-- `host.poll_quit()`: the answer of the environment, or a free one (40_pipeline R120; log 6). -/
def State.pollAnswer (s : State) : Bool :=
  match s.env.pollAnswers with
  | ans :: _ => ans
  | [] => Config.freePollQuit s.env.hostCalls.length

/-- The tick the environment has at this boundary (40_pipeline R120, 80_host R321; log 7). -/
def State.tickNow (s : State) : Tick :=
  match s.env.ticks with
  | t :: _ => t
  | [] => .none

/-- A call to `write` is made: it is recorded and its answer used up. -/
def State.callWrite (s : State) (fd : Byte) (data : List Byte) : State :=
  { s with env := { s.env with writeAnswers := s.env.writeAnswers.tail, hostCalls := .write fd data :: s.env.hostCalls } }

/-- A call to `read` is made: it is recorded and its answer used up. -/
def State.callRead (s : State) (fd : Byte) (len : Nat) : State :=
  { s with env := { s.env with readAnswers := s.env.readAnswers.tail, hostCalls := .read fd len :: s.env.hostCalls } }

/-- A call to `poll_quit` is made: it is recorded and its answer used up. -/
def State.callPoll (s : State) : State :=
  { s with env := { s.env with pollAnswers := s.env.pollAnswers.tail, hostCalls := .pollQuit :: s.env.hostCalls } }

/-- The tick of this boundary is used up; where one was pending, the call to it is recorded. -/
def State.callTick (s : State) : State :=
  let calls := match s.tickNow with
    | .none => s.env.hostCalls
    | .pending _ => .eventTick :: s.env.hostCalls
  { s with env := { s.env with ticks := s.env.ticks.tail, hostCalls := calls } }

/-- The contract of `write`'s answer: a count of at most what was passed (45_system R224, 93 U6). -/
def WriteAnswer.allowed (ans : WriteAnswer) (len : Nat) : Bool :=
  match ans with
  | .success n => decide (n ≤ len)
  | .failure _ => true

/-- The contract of `read`'s answer: at most `len` bytes (45_system R225, 93 U6). -/
def ReadAnswer.allowed (ans : ReadAnswer) (len : Nat) : Bool :=
  match ans with
  | .success data => decide (data.length ≤ len)
  | .failure _ => true

end Sys2Proof.Machine
end

