-- ==== Sys2Proof/Machine/Operands.lean ====
section
/-!
DEFINITION. The operand forms of 30_encoding R91 and 44_loadstore R211: program-counter targets, displacements, absolute
operands, the register-pair address and the stack addresses.
-/

namespace Sys2Proof.Machine

/-- The address of the next word, `A + 2` modulo 2^16 (40_pipeline R118). -/
def State.nextPc (s : State) : Addr := s.pcGet + 2#16

/-- `pc <- A + 2`, how a one-word instruction that does not set `pc` retires (40_pipeline R118). -/
def State.advance (s : State) : State := s.setPc s.nextPc

/-- The byte displacement of format J: `sext_16(k12) << 1` (30_encoding R91). -/
def displacement12 (k : BitVec 12) : Addr := k.signExtend 16 <<< 1

/-- The byte displacement of format C: `sext_16(k8) << 1` (30_encoding R91). -/
def displacement8 (k : Byte) : Addr := k.signExtend 16 <<< 1

/-- The target of a taken relative transfer, `A + 2 + D` (30_encoding R91, 43_control R185). -/
def State.relativeTarget (s : State) (d : Addr) : Addr := s.nextPc + d

/-- The second word of a two-word instruction, `MemRead(A + 2, 2)` each time it executes (43_control R188, R189). -/
def State.secondWord (s : State) : Option Word16 := s.memRead s.nextPc .two

/-- The effective address of a load or store: the pair as it stands (44_loadstore R211). -/
def State.pairAddress (s : State) (r : Reg) : Addr := s.getPair r

/-- The address a push stores at (10_state R29). -/
def State.pushAddress (s : State) : Addr := s.sp - 1#16

/-- `x[r][b]`, a bit of a register (43_control R193, R194). -/
def State.regBit (s : State) (r : Reg) (b : BitNo) : Bool := (s.getReg r).getLsbD b.toNat

/-- The address after an inspected instruction of width `n` words at `A + 2` (43_control R191). -/
def State.skipTarget (s : State) (n : Nat) : Addr := s.nextPc + BitVec.ofNat 16 (Config.p0.iword * n)

end Sys2Proof.Machine
end

