-- ==== Sys2Proof/Machine/Arith.lean ====
section
/-!
DEFINITION. 41_alu: the two-register and register-immediate arithmetic, logic and move instructions. All read before they
write (00_scope R9), retire with `pc <- A + 2` and raise nothing.
-/

namespace Sys2Proof.Machine

/-! ## Shared shapes -/

/-- `x[d] <- r; sr <- sr'; pc <- A + 2`. -/
def State.writeResult (s : State) (d : Reg) (r sr' : Byte) : State := ((s.setReg d r).setSr sr').advance

/-- `(r, sr') <- AddEval(x[d], b, cin, sr); x[d] <- r; sr <- sr'; pc <- A + 2` (41_alu R144, R145, R154). -/
def State.addInto (s : State) (d : Reg) (b : Byte) (cin : Bool) : State :=
  s.writeResult d (addResult (s.getReg d) b cin) (addFlags (s.getReg d) b cin s.sr)

/-- `(r, sr') <- SubEval(x[d], b, bin, sr); x[d] <- r; sr <- sr'; pc <- A + 2` (41_alu R146, R147, R155). -/
def State.subFrom (s : State) (d : Reg) (b : Byte) (bin : Bool) : State :=
  s.writeResult d (subResult (s.getReg d) b bin) (subFlags (s.getReg d) b bin s.sr)

/-- `(r, sr') <- SubEval(x[d], b, 0, sr); sr <- sr'; pc <- A + 2`, r discarded (41_alu R148, R156). -/
def State.compareWith (s : State) (d : Reg) (b : Byte) : State :=
  (s.setSr (subFlags (s.getReg d) b false s.sr)).advance

/-- `x[d] <- r; sr <- LogicEval(r, sr); pc <- A + 2` (41_alu R149 to R151, R157, R158). -/
def State.logicInto (s : State) (d : Reg) (r : Byte) : State := s.writeResult d r (logicFlags r s.sr)

/-- `x[d] <- v; pc <- A + 2` (41_alu R152, R153). -/
def State.moveInto (s : State) (d : Reg) (v : Byte) : State := (s.setReg d v).advance

/-! ## Format R -/

/-- `ADD rd, rs` (41_alu R144). -/
def execAdd (d r : Reg) (s : State) : Host.Outcome State Fault Refusal := .next (s.addInto d (s.getReg r) false)

/-- `ADC rd, rs` (41_alu R145). -/
def execAdc (d r : Reg) (s : State) : Host.Outcome State Fault Refusal :=
  .next (s.addInto d (s.getReg r) (getFlag s.sr flagC))

/-- `SUB rd, rs` (41_alu R146). -/
def execSub (d r : Reg) (s : State) : Host.Outcome State Fault Refusal := .next (s.subFrom d (s.getReg r) false)

/-- `SBC rd, rs` (41_alu R147): C is the borrow in; Z is of this result only (R142). -/
def execSbc (d r : Reg) (s : State) : Host.Outcome State Fault Refusal :=
  .next (s.subFrom d (s.getReg r) (getFlag s.sr flagC))

/-- `CP rd, rs` (41_alu R148). -/
def execCp (d r : Reg) (s : State) : Host.Outcome State Fault Refusal := .next (s.compareWith d (s.getReg r))

/-- `AND rd, rs` (41_alu R149). -/
def execAnd (d r : Reg) (s : State) : Host.Outcome State Fault Refusal := .next (s.logicInto d (s.getReg d &&& s.getReg r))

/-- `OR rd, rs` (41_alu R150). -/
def execOr (d r : Reg) (s : State) : Host.Outcome State Fault Refusal := .next (s.logicInto d (s.getReg d ||| s.getReg r))

/-- `XOR rd, rs` (41_alu R151). -/
def execXor (d r : Reg) (s : State) : Host.Outcome State Fault Refusal := .next (s.logicInto d (s.getReg d ^^^ s.getReg r))

/-- `MOV rd, rs` (41_alu R152). -/
def execMov (d r : Reg) (s : State) : Host.Outcome State Fault Refusal := .next (s.moveInto d (s.getReg r))

/-! ## Format I -/

/-- `LDI rd, k` (41_alu R153). -/
def execLdi (d : Reg) (k : Byte) (s : State) : Host.Outcome State Fault Refusal := .next (s.moveInto d k)

/-- `ADDI rd, k` (41_alu R154). -/
def execAddi (d : Reg) (k : Byte) (s : State) : Host.Outcome State Fault Refusal := .next (s.addInto d k false)

/-- `SUBI rd, k` (41_alu R155). -/
def execSubi (d : Reg) (k : Byte) (s : State) : Host.Outcome State Fault Refusal := .next (s.subFrom d k false)

/-- `CPI rd, k` (41_alu R156). -/
def execCpi (d : Reg) (k : Byte) (s : State) : Host.Outcome State Fault Refusal := .next (s.compareWith d k)

/-- `ANDI rd, k` (41_alu R157). -/
def execAndi (d : Reg) (k : Byte) (s : State) : Host.Outcome State Fault Refusal := .next (s.logicInto d (s.getReg d &&& k))

/-- `ORI rd, k` (41_alu R158). -/
def execOri (d : Reg) (k : Byte) (s : State) : Host.Outcome State Fault Refusal := .next (s.logicInto d (s.getReg d ||| k))

end Sys2Proof.Machine
end

