-- ==== Sys2Proof/Machine/Control.lean ====
section
/-!
DEFINITION. 43_control: jumps, branches, call, return and conditional skips. None writes a flag; targets are not checked (R195).
`A + 2` is even whenever `A` is, which every fetch ensures (20_memory R56); with an odd `A`, which no run reaches, a read of
the second word or of the following slot raises the bus error of its misaligned address (log 12).
-/

namespace Sys2Proof.Machine

/-! ## Relative transfers -/

/-- `RJMP k` (43_control R185). -/
def execRjmp (k : BitVec 12) (s : State) : Host.Outcome State Fault Refusal :=
  .next (s.setPc (s.relativeTarget (displacement12 k)))

/-- A conditional branch: the target where `taken`, else the next instruction (43_control R186, R187). -/
def State.branch (s : State) (taken : Bool) (k : Byte) : State :=
  if taken then s.setPc (s.relativeTarget (displacement8 k)) else s.advance

/-- `BRBC b, k`: branch if flag b is clear (43_control R186). -/
def execBrbc (b : BitNo) (k : Byte) (s : State) : Host.Outcome State Fault Refusal := .next (s.branch (!getFlag s.sr b) k)

/-- `BRBS b, k`: branch if flag b is set (43_control R187). -/
def execBrbs (b : BitNo) (k : Byte) (s : State) : Host.Outcome State Fault Refusal := .next (s.branch (getFlag s.sr b) k)

/-! ## Two-word jump and call, return -/

/-- `JMP a` (43_control R188): the target is read from memory each time. -/
def execJmp (s : State) : Host.Outcome State Fault Refusal :=
  match s.secondWord with
  | none => .next (s.stop (.busError s.nextPc))
  | some t => .next (s.setPc t)

/-- The two stores of a call: high byte at `sp - 1`, low byte at `sp - 2` (43_control R189). -/
def State.pushWord (s : State) (v : Word16) : State :=
  ((s.storeByte (s.sp - 1#16) (v.extractLsb' 8 8)).storeByte (s.sp - 2#16) (v.extractLsb' 0 8)).setSp (s.sp - 2#16)

/-- `CALL a` (43_control R189): the target is read before the pushes; the return address is `A + 4`. -/
def execCall (s : State) : Host.Outcome State Fault Refusal :=
  match s.secondWord with
  | none => .next (s.stop (.busError s.nextPc))
  | some t => .next ((s.pushWord (s.pcGet + 4#16)).setPc t)

/-- `RET` (43_control R190): low byte at `sp`, high byte at `sp + 1`. -/
def execRet (s : State) : Host.Outcome State Fault Refusal :=
  .next ((s.setSp (s.sp + 2#16)).setPc (wordOfBytes (s.byteAt s.sp) (s.byteAt (s.sp + 1#16))))

/-! ## Conditional skips -/

/-- `Skip(cond)` (43_control R191): where it is taken, the following slot is fetched to learn its width; nothing of it is
executed, whatever it holds. -/
def State.skip (s : State) (cond : Bool) : State :=
  if cond then
    match s.fetch s.nextPc with
    | none => s.stop (.busError s.nextPc)
    | some (next, s') => s'.setPc (s.skipTarget next.width)
  else s.advance

/-- `CPSE rd, rs` (43_control R192): flags unchanged although it compares. -/
def execCpse (d r : Reg) (s : State) : Host.Outcome State Fault Refusal := .next (s.skip (s.getReg d == s.getReg r))

/-- `SBRC rs, b` (43_control R193). -/
def execSbrc (b : BitNo) (r : Reg) (s : State) : Host.Outcome State Fault Refusal := .next (s.skip (!s.regBit r b))

/-- `SBRS rs, b` (43_control R194). -/
def execSbrs (b : BitNo) (r : Reg) (s : State) : Host.Outcome State Fault Refusal := .next (s.skip (s.regBit r b))

end Sys2Proof.Machine
end

