-- ==== Sys2Proof/Machine/LoadStore.lean ====
section
/-!
DEFINITION. 44_loadstore: loads and stores through a register pair, push and pop. None writes a flag; only the word forms can
raise, a bus error at an odd address, before any effect.
-/

namespace Sys2Proof.Machine

/-- `LDB rd, (rs)` (44_loadstore R205): the address is read before the register is written. -/
def execLdb (d r : Reg) (s : State) : Host.Outcome State Fault Refusal :=
  .next (s.setReg d (s.byteAt (s.pairAddress r))).advance

/-- `STB rd, (rs)` (44_loadstore R206): rd is the data, rs the address pair. -/
def execStb (d r : Reg) (s : State) : Host.Outcome State Fault Refusal :=
  .next (s.storeByte (s.pairAddress r) (s.getReg d)).advance

/-- `LDW rd, (rs)` (44_loadstore R207). -/
def execLdw (d r : Reg) (s : State) : Host.Outcome State Fault Refusal :=
  match s.memRead (s.pairAddress r) .two with
  | none => .next (s.stop (.busError (s.pairAddress r)))
  | some v => .next (s.setPair d v).advance

/-- `STW rd, (rs)` (44_loadstore R208). -/
def execStw (d r : Reg) (s : State) : Host.Outcome State Fault Refusal :=
  match s.memWrite (s.pairAddress r) .two (s.getPair d) with
  | none => .next (s.stop (.busError (s.pairAddress r)))
  | some s' => .next s'.advance

/-- `PUSH rs` (44_loadstore R209). -/
def execPush (r : Reg) (s : State) : Host.Outcome State Fault Refusal :=
  .next ((s.storeByte s.pushAddress (s.getReg r)).setSp s.pushAddress).advance

/-- `POP rd` (44_loadstore R210). -/
def execPop (d : Reg) (s : State) : Host.Outcome State Fault Refusal :=
  .next ((s.setReg d (s.byteAt s.sp)).setSp (s.sp + 1#16)).advance

end Sys2Proof.Machine
end

