-- ==== Sys2Proof/Machine/ShiftFlag.lean ====
section
/-!
DEFINITION. 42_shift_flag: one-bit shifts and rotates, flag manipulation, no operation. All retire with `pc <- A + 2` and
raise nothing.
-/

namespace Sys2Proof.Machine

/-- `(r, sr') <- ShiftEval(op, x[d], sr); x[d] <- r; sr <- sr'; pc <- A + 2` (42_shift_flag R172 to R176). -/
def State.shiftReg (s : State) (op : ShiftOp) (d : Reg) : State :=
  ((s.setReg d (shiftResult op (s.getReg d) (getFlag s.sr flagC))).setSr (shiftFlags op (s.getReg d) s.sr)).advance

/-- `LSL rd` (42_shift_flag R172). -/
def execLsl (d : Reg) (s : State) : Host.Outcome State Fault Refusal := .next (s.shiftReg .lsl d)

/-- `LSR rd` (42_shift_flag R173). -/
def execLsr (d : Reg) (s : State) : Host.Outcome State Fault Refusal := .next (s.shiftReg .lsr d)

/-- `ASR rd` (42_shift_flag R174). -/
def execAsr (d : Reg) (s : State) : Host.Outcome State Fault Refusal := .next (s.shiftReg .asr d)

/-- `ROL rd` (42_shift_flag R175). -/
def execRol (d : Reg) (s : State) : Host.Outcome State Fault Refusal := .next (s.shiftReg .rol d)

/-- `ROR rd` (42_shift_flag R176). -/
def execRor (d : Reg) (s : State) : Host.Outcome State Fault Refusal := .next (s.shiftReg .ror d)

/-- `SEF b` (42_shift_flag R177): flag b set, every other bit unchanged. -/
def execSef (b : BitNo) (s : State) : Host.Outcome State Fault Refusal := .next (s.setSr (putFlag s.sr b true)).advance

/-- `CLF b` (42_shift_flag R178): flag b cleared, every other bit unchanged. -/
def execClf (b : BitNo) (s : State) : Host.Outcome State Fault Refusal := .next (s.setSr (putFlag s.sr b false)).advance

/-- `NOP` (42_shift_flag R179). -/
def execNop (s : State) : Host.Outcome State Fault Refusal := .next s.advance

end Sys2Proof.Machine
end

