-- ==== Sys2Proof/Machine/System.lean ====
section
/-!
DEFINITION. 45_system: `TRAP`, with the syscall bridge's hand-off (`TRAP_ABI`, R221), and `BREAK`. None writes a flag.
-/

namespace Sys2Proof.Machine

/-! ## The register convention of TRAP (45_system R221), by `TRAP_ABI` -/

/-- Argument 0 of TRAP 1 and TRAP 2, the file descriptor: `x[0]`. -/
def State.trapDescriptor (s : State) : Byte := s.getReg Config.p0.trapAbi.fileDescriptor
/-- The exit status, argument 0 of TRAP 0: `x[0]`. -/
def State.trapStatus (s : State) : Byte := s.getReg Config.p0.trapAbi.exitStatus
/-- Argument 1, the buffer address: `xp[2]`. -/
def State.trapBuffer (s : State) : Addr := s.getPair Config.p0.trapAbi.bufferPair
/-- Argument 2, the length in bytes: `xp[4]`, unsigned. -/
def State.trapLength (s : State) : Nat := (s.getPair Config.p0.trapAbi.lengthPair).toNat

/-- The return value in `xp[0]` and the error code in `x[6]`, and the instruction retires. -/
def State.trapReturn (s : State) (value : Word16) (errno : Byte) : State :=
  ((s.setPair Config.p0.trapAbi.resultPair value).setReg Config.p0.trapAbi.errorCode errno).advance

/-- The return of a failed call: -1 and the error code. -/
def State.trapFail (s : State) (errno : Byte) : State := s.trapReturn Config.p0.trapAbi.failureResult errno

/-- `SysWrite()` (45_system R224): the buffer's bytes go to the host; memory and cache are unchanged. -/
def sysWrite (s : State) : Host.Outcome State Fault Refusal :=
  let data := s.readBytes s.trapBuffer s.trapLength
  let after := s.callWrite s.trapDescriptor data
  match s.writeAnswer s.trapDescriptor data with
  | .success n =>
    if n ≤ s.trapLength then .next (after.trapReturn (BitVec.ofNat 16 n) Config.p0.trapAbi.noError)
    else .refused .hostAnswerOutsideContract
  | .failure e => .next (after.trapFail e)

/-- `SysRead()` (45_system R225): the host's bytes arrive through the ordinary write path. -/
def sysRead (s : State) : Host.Outcome State Fault Refusal :=
  let after := s.callRead s.trapDescriptor s.trapLength
  match s.readAnswer s.trapDescriptor s.trapLength with
  | .success data =>
    if data.length ≤ s.trapLength then
      .next ((after.writeBytes s.trapBuffer data).trapReturn (BitVec.ofNat 16 data.length) Config.p0.trapAbi.noError)
    else .refused .hostAnswerOutsideContract
  | .failure e => .next (after.trapFail e)

/-- `TRAP k` (45_system R220): 0 exits (R223), 1 writes (R224), 2 reads (R225), every other code stops (R226). -/
def execTrap (k : Byte) (s : State) : Host.Outcome State Fault Refusal :=
  if k = Config.p0.trapAbi.exitCode then .next (s.stop (.exit s.trapStatus))
  else if k = Config.p0.trapAbi.writeCode then sysWrite s
  else if k = Config.p0.trapAbi.readCode then sysRead s
  else .next (s.stop (.trapStop k))

/-- `BREAK` (45_system R227). -/
def execBrk (s : State) : Host.Outcome State Fault Refusal := .next (s.stop .breakpoint)

end Sys2Proof.Machine
end

