-- ==== Sys2Proof/Machine/Dispatch.lean ====
section
/-! DEFINITION. `Execute(tag, aux, A)` (40_pipeline R119): one arm per constructor of `Instr`. -/

namespace Sys2Proof.Machine

def exec (i : Instr) (s : State) : Host.Outcome State Fault Refusal :=
  match i with
  | .nop => Sys2Proof.Machine.execNop s
  | .brk => Sys2Proof.Machine.execBrk s
  | .ret => Sys2Proof.Machine.execRet s
  | .trap k => Sys2Proof.Machine.execTrap k s
  | .sef b => Sys2Proof.Machine.execSef b s
  | .clf b => Sys2Proof.Machine.execClf b s
  | .jmp => Sys2Proof.Machine.execJmp s
  | .call => Sys2Proof.Machine.execCall s
  | .push r => Sys2Proof.Machine.execPush r s
  | .pop d => Sys2Proof.Machine.execPop d s
  | .lsl d => Sys2Proof.Machine.execLsl d s
  | .lsr d => Sys2Proof.Machine.execLsr d s
  | .asr d => Sys2Proof.Machine.execAsr d s
  | .rol d => Sys2Proof.Machine.execRol d s
  | .ror d => Sys2Proof.Machine.execRor d s
  | .sbrc b r => Sys2Proof.Machine.execSbrc b r s
  | .sbrs b r => Sys2Proof.Machine.execSbrs b r s
  | .add d r => Sys2Proof.Machine.execAdd d r s
  | .adc d r => Sys2Proof.Machine.execAdc d r s
  | .sub d r => Sys2Proof.Machine.execSub d r s
  | .sbc d r => Sys2Proof.Machine.execSbc d r s
  | .cp d r => Sys2Proof.Machine.execCp d r s
  | .and d r => Sys2Proof.Machine.execAnd d r s
  | .or d r => Sys2Proof.Machine.execOr d r s
  | .xor d r => Sys2Proof.Machine.execXor d r s
  | .mov d r => Sys2Proof.Machine.execMov d r s
  | .cpse d r => Sys2Proof.Machine.execCpse d r s
  | .ldb d r => Sys2Proof.Machine.execLdb d r s
  | .stb d r => Sys2Proof.Machine.execStb d r s
  | .ldw d r => Sys2Proof.Machine.execLdw d r s
  | .stw d r => Sys2Proof.Machine.execStw d r s
  | .ldi d k => Sys2Proof.Machine.execLdi d k s
  | .addi d k => Sys2Proof.Machine.execAddi d k s
  | .subi d k => Sys2Proof.Machine.execSubi d k s
  | .cpi d k => Sys2Proof.Machine.execCpi d k s
  | .andi d k => Sys2Proof.Machine.execAndi d k s
  | .ori d k => Sys2Proof.Machine.execOri d k s
  | .rjmp k => Sys2Proof.Machine.execRjmp k s
  | .brbc b k => Sys2Proof.Machine.execBrbc b k s
  | .brbs b k => Sys2Proof.Machine.execBrbs b k s

end Sys2Proof.Machine
end

