-- ==== Sys2Proof/Machine/Harness.lean ====
section
/-!
DEFINITION. The calls of the harness (80_host R310 to R319; 70_reset R280, R281).
-/

namespace Sys2Proof.Machine

/-- A 16-bit register as the harness's bytes, little-endian (80_host R312). -/
def bytesOfWord (v : Word16) : List Byte := [v.extractLsb' 0 8, v.extractLsb' 8 8]

/-- `register_get(index)` over `REGNUM` (80_host R312); `none` outside its numbers (R314). -/
def State.registerGet (s : State) (index : Nat) : Option (List Byte) :=
  if index < Config.p0.regNum.general then some [s.getReg (BitVec.ofNat 4 index)]
  else if index = Config.p0.regNum.sr then some [s.sr]
  else if index = Config.p0.regNum.sp then some (bytesOfWord s.sp)
  else if index = Config.p0.regNum.pc then some (bytesOfWord s.pcGet)
  else none

/-- `register_store(index, bytes)` (80_host R312, R313): the width written and the new state, or 0 and no change where the
length is not the register's width; `none` outside `REGNUM` (R314). Bit 7 of `sr` stays 0. -/
def State.registerStore (s : State) (index : Nat) (bytes : List Byte) : Option (Nat × State) :=
  if index < Config.p0.regNum.general then
    match bytes with
    | [v] => some (1, s.setReg (BitVec.ofNat 4 index) v)
    | _ => some (0, s)
  else if index = Config.p0.regNum.sr then
    match bytes with
    | [v] => some (1, s.setSr (v &&& 0x7F#8))
    | _ => some (0, s)
  else if index = Config.p0.regNum.sp then
    match bytes with
    | [lo, hi] => some (2, s.setSp (wordOfBytes lo hi))
    | _ => some (0, s)
  else if index = Config.p0.regNum.pc then
    match bytes with
    | [lo, hi] => some (2, s.setPc (wordOfBytes lo hi))
    | _ => some (0, s)
  else none

/-- `load(base, bytes)` and `memory_write(addr, bytes)` (80_host R315, R316): bytewise, ascending, wrapping, no alignment,
each byte emptying its slot. -/
def State.bulkWrite (s : State) (base : Nat) (bytes : List Byte) : State := s.writeBytes (mask base) bytes

/-- `memory_read(addr, n)` (80_host R316). -/
def State.bulkRead (s : State) (addr n : Nat) : List Byte := s.readBytes (mask addr) n

/-- The segments of an image, loaded in the order given (70_reset R281). -/
def State.loadSegments (s : State) : List (Nat × List Byte) → State
  | [] => s
  | seg :: rest => (s.bulkWrite seg.1 seg.2).loadSegments rest

/-- `reset_with_image(segments, entry, 0)` (70_reset R281). -/
def State.resetWithImage (s : State) (segments : List (Nat × List Byte)) (entry : Nat) : State :=
  { (State.created s.env).loadSegments segments with pc := mask entry, loaded := true }

/-- A value returned to the harness. -/
def State.reply (s : State) (r : Reply) : State := { s with env := { s.env with replies := r :: s.env.replies } }

/-- One call of the harness, refused while a `run` executes (80_host R310, 93 U4). -/
def harnessCall (c : Command) (s : State) : Host.Outcome State Fault Refusal :=
  if s.phase ≠ .halted then .refused .callDuringRun
  else
    match c with
    | .reset => .next (State.created s.env)
    | .resetWithImage segments entry machineType =>
      if machineType = Config.p0.machineType then .next (s.resetWithImage segments entry)
      else .refused (.unknownMachineType machineType)
    | .load base bytes => .next (s.bulkWrite base bytes)
    | .registerGet index =>
      match s.registerGet index with
      | some v => .next (s.reply (.bytes v))
      | none => .refused (.invalidRegisterIndex index)
    | .registerStore index bytes =>
      match s.registerStore index bytes with
      | some (n, s') => .next (s'.reply (.count n))
      | none => .refused (.invalidRegisterIndex index)
    | .memoryRead addr length => .next (s.reply (.bytes (s.bulkRead addr length)))
    | .memoryWrite addr bytes => .next (s.bulkWrite addr bytes)
    | .run mode => if s.loaded then .next (s.runEntry mode) else .refused .runBeforeLoad
    | .stopReason => .next (s.reply (.reason s.halt))

/-- A HALTED core: the harness makes its next call; with none to come the core stays as it is (60_exceptions R260; log 8). -/
def harnessTurn (s : State) : Host.Outcome State Fault Refusal :=
  match s.env.commands with
  | [] => .next s
  | c :: rest => harnessCall c { s with env := { s.env with commands := rest } }

end Sys2Proof.Machine
end

