-- ==== Sys2Proof/Machine/Pipeline.lean ====
section
/-!
DEFINITION. The parts of the loop of 40_pipeline R112: the instruction boundary (R120), the start of dispatching (R110, R114),
retirement with the observer (R123) and single-step (60_exceptions R248), and the bytes of a placed instruction.
-/

namespace Sys2Proof.Machine

/-! ## The boundary (40_pipeline R120) -/

/-- `poll_count` counts down to 0 at this boundary. -/
def State.pollDue (s : State) : Bool := s.pollCount - 1 == 0

/-- Check (a): the counter is decremented; at 0 it is reloaded with `POLL_INTERVAL` and `poll_quit()` is called, whose yes
sets `stop_request`. -/
def State.afterPoll (s : State) : State :=
  if s.pollDue then
    { s.callPoll with pollCount := s.env.pollInterval, stopRequest := s.stopRequest || s.pollAnswer }
  else { s with pollCount := s.pollCount - 1 }

/-- Whether a tick signals quit. -/
def Tick.quits : Tick → Bool
  | .none => false
  | .pending q => q

/-- Check (b): a pending event tick is called, and may set `stop_request`; it changes nothing else of the core (80_host
R321; log 7). -/
def State.afterTick (s : State) : State :=
  { s.callTick with stopRequest := s.stopRequest || s.tickNow.quits }

/-- The state in which `Boundary()` looks at `stop_request`. -/
def State.atBoundary (s : State) : State := s.afterPoll.afterTick

/-- An external stop is honoured: `stop_request <- 0; Halt(stopped, SIGINT)` (60_exceptions R245). -/
def State.externalStop (s : State) : State := ({ s with stopRequest := false }).stop .externalStop

/-! ## Dispatch and retirement -/

/-- The transition FETCHING to DISPATCHING counts one in `cycles` (40_pipeline R110, R114). -/
def State.beginDispatch (s : State) : State := { s with cycles := s.cycles + 1, phase := .dispatching }

/-- The transition DISPATCHING to FETCHING: the instruction at `a` has retired, and the observer is told (40_pipeline R110,
R112, R123). -/
def State.observe (s : State) (a : Addr) (i : Instr) : State :=
  { s with phase := .fetching, env := { s.env with observed := ⟨a, i⟩ :: s.env.observed } }

/-- What follows the effect of the instruction `i` fetched at `a`: nothing if it stopped the core (it did not retire); else
it retires, and in single-step mode the step is complete (40_pipeline R112, 60_exceptions R248, R249). -/
def State.retire (s : State) (a : Addr) (i : Instr) : State :=
  if s.phase = .halted then s
  else
    match s.env.mode with
    | .singleStep => (s.observe a i).stop .stepComplete
    | .continuous => s.observe a i

/-! ## Placing an instruction -/

/-- The instruction whose bits are `w` stored at `a`, 4 bytes (the longest instruction), low bits first
(30_encoding R81). -/
def State.placeInstruction (s : State) (a : Addr) (nbits w : Nat) : State :=
  s.writeBytes a [tableByte nbits w 0, tableByte nbits w 1, tableByte nbits w 2, tableByte nbits w 3]

/-- A running core whose next boundary goes on to a fetch: `run` has been entered on a loaded image, no stop is requested,
no tick is pending and no poll is due. -/
def State.readyToFetch (s : State) : State :=
  { s with
    phase := .fetching, halt := none, loaded := true, stopRequest := false
    pollCount := if s.pollDue then 2 else s.pollCount
    env := { s.env with ticks := [] } }

end Sys2Proof.Machine
end

