-- ==== Sys2Proof/Machine/Step.lean ====
section
/-!
DEFINITION. One step: one iteration of the loop of 40_pipeline R112 where a `run` executes, one call of the harness where the
core is HALTED.
-/

namespace Sys2Proof.Machine

/-- `Execute(tag, aux, A)` and what follows it in the loop, in a state whose `phase` is DISPATCHING and whose `pc` is still
`A` (40_pipeline R112, R119; 45_system R228). -/
def dispatch (d : Decoded) (s : State) : Host.Outcome State Fault Refusal :=
  match d with
  | .illegal => .next (s.stop .illegalInstruction)
  | .legal i =>
    match exec i s with
    | .next t => .next (t.retire s.pcGet i)
    | .fault r => .fault r
    | .refused r => .refused r

/-- `Fetch(A)`, the count, and the dispatch; a misaligned `pc` stops with a bus error and counts nothing (40_pipeline R112 to
R114, 60_exceptions R243). -/
def fetchAndDispatch (s : State) : Host.Outcome State Fault Refusal :=
  match s.fetch s.pcGet with
  | none => .next (s.stop (.busError s.pcGet))
  | some (d, s') => dispatch d s'.beginDispatch

/-- An instruction already fetched and counted is dispatched (log 9: no step ends in such a state). -/
def resumeDispatch (s : State) : Host.Outcome State Fault Refusal :=
  match s.fetch s.pcGet with
  | none => .next (s.stop (.busError s.pcGet))
  | some (d, s') => dispatch d s'

/-- One step of the machine (40_pipeline R110, R112; 60_exceptions R249 for the order of the checks). -/
def step (s : State) : Host.Outcome State Fault Refusal :=
  match s.phase with
  | .halted => harnessTurn s
  | .dispatching => resumeDispatch s
  | .fetching =>
    if s.atBoundary.stopRequest then .next s.atBoundary.externalStop
    else fetchAndDispatch s.atBoundary

/-- `s` with the instruction whose bits are `w` stored at `pc`, and the core running so that the very next step fetches and
runs it (log 1: this stands for `reset_with_image` and `run`). -/
def State.withFetchWord (s : State) (nbits w : Nat) : State := (s.placeInstruction s.pcGet nbits w).readyToFetch

end Sys2Proof.Machine
end

