-- ==== Sys2Proof/Safety.lean ====
section
/-!
DEFINITION. What holds of every state a run can reach (the invariant), coherence of the decode cache, and the terms in which
claims say what an instruction leaves unchanged.
-/

namespace Sys2Proof.Machine

/-! ## The decode cache and memory -/

/-- The instruction word in memory at `a`: `mem[a+1] :: mem[a]` (30_encoding R81). -/
def State.wordAt (s : State) (a : Addr) : Word16 := wordOfBytes (s.byteAt a) (s.byteAt (a + 1#16))

/-- The address of slot `i`, `2i` (40_pipeline R111). -/
def slotAddress (i : Nat) : Addr := BitVec.ofNat 16 (2 * i)

/-- Coherence of the decode cache (40_pipeline R117): a filled slot holds the word now in memory there, and its decode. -/
def CacheCoherent (s : State) : Prop :=
  ∀ i e, tableFind s.icache i = some e →
    i < 32768 ∧ e.raw = s.wordAt (slotAddress i) ∧ e.decoded = decode e.raw

/-! ## The invariant -/

/-- A halt record P0 produces: an exit status of 8 bits, or one of the four stop codes (10_state R35, 60_exceptions R241,
R246). -/
def HaltRecord.legal (h : HaltRecord) : Prop :=
  (h.reason = .exited ∧ h.code < 256) ∨ (h.reason = .stopped ∧ (h.code = 2 ∨ h.code = 4 ∨ h.code = 5 ∨ h.code = 10))

/-- What every reachable state satisfies. -/
structure Inv (s : State) : Prop where
  /-- The memory image is in its canonical form. -/
  memory : s.mem.wf
  /-- The cache is in its canonical form. -/
  cacheSorted : TableSorted s.icache
  /-- 40_pipeline R117. -/
  cacheCoherent : CacheCoherent s
  /-- Bit 7 of `sr` is 0 (10_state R27). -/
  srReserved : getFlag s.sr srReserved = false
  /-- `POLL_INTERVAL` is a positive integer (00_scope R6). -/
  intervalPositive : 0 < s.env.pollInterval
  /-- `poll_count` is above 0 at every boundary (40_pipeline R120). -/
  pollPositive : 0 < s.pollCount
  /-- `poll_count` is at most `POLL_INTERVAL` (40_pipeline R120). -/
  pollBounded : s.pollCount ≤ s.env.pollInterval
  /-- No step ends inside an instruction (10_state R40). -/
  notDispatching : s.phase ≠ .dispatching
  /-- A halt record stands only while the core is HALTED (40_pipeline R121). -/
  haltWhenHalted : s.phase = .fetching → s.halt = none
  /-- 60_exceptions R241, R246. -/
  haltLegal : ∀ h, s.halt = some h → h.legal
  /-- A `run` executes only on a loaded image (80_host R317). -/
  runningLoaded : s.phase = .fetching → s.loaded = true

/-! ## What stays unchanged -/

/-- Every byte of memory reads as before. -/
def SameMemory (s t : State) : Prop := ∀ a, t.byteAt a = s.byteAt a

/-- Every byte of memory but those at addresses in `stored` reads as before. -/
def SameMemoryBut (s t : State) (stored : List Addr) : Prop := ∀ a, a ∉ stored → t.byteAt a = s.byteAt a

/-- Every general register reads as before. -/
def SameRegs (s t : State) : Prop := ∀ j, t.getReg j = s.getReg j

/-- Every general register but those in `written` reads as before. -/
def SameRegsBut (s t : State) (written : List Reg) : Prop := ∀ j, j ∉ written → t.getReg j = s.getReg j

/-- The slots in `slots` are empty and every other slot of the decode cache is as before. -/
def SlotsEmptied (s t : State) (slots : List Nat) : Prop :=
  ∀ i, tableFind t.icache i = if i ∈ slots then none else tableFind s.icache i

/-- The control state of the dispatcher is as before. -/
structure SameControl (s t : State) : Prop where
  cycles : t.cycles = s.cycles
  phase : t.phase = s.phase
  halt : t.halt = s.halt
  pollCount : t.pollCount = s.pollCount
  stopRequest : t.stopRequest = s.stopRequest
  loaded : t.loaded = s.loaded

/-- `t` is `s` but for the decode cache. -/
def SameButCache (s t : State) : Prop := t = { s with icache := t.icache }

/-- `t` is `s` but for the decode cache, and both caches are coherent. -/
structure SameButCoherentCache (s t : State) : Prop where
  same : SameButCache s t
  left : CacheCoherent s
  right : CacheCoherent t

/-- Two outcomes are the same refusal, or next states that differ in coherent decode caches alone. -/
def SameOutcomeButCache : Host.Outcome State Fault Refusal → Host.Outcome State Fault Refusal → Prop
  | .next t, .next u => SameButCoherentCache t u
  | .refused r, .refused r' => r = r'
  | _, _ => False

end Sys2Proof.Machine
end

