-- ==== Sys2Proof/Certificates/Slice0/Obligations.lean ====
section
/-!
DEFINITION. The statements for the provers. Each says what the spec's rule says in the spec's own terms (arithmetic on
numbers, bits of operands, bytes of memory), not by the model's own evaluator.
-/

namespace Sys2Proof.Statements

open Sys2Proof Sys2Proof.Machine

/-! ## Shared phrases -/

/-- `exec i s` answers a next state of which `P` holds. -/
def Completes (i : Instr) (s : State) (P : State → Prop) : Prop := ∃ t, exec i s = .next t ∧ P t

/-- The encoding clause of an instruction rule: "match value, mask m", and the decoder reads the instruction back. -/
def Encoded (i : Instr) (value m : Word16) : Prop := encode i &&& m = value ∧ decode (encode i) = .legal i

/-- No effect on memory, cache, control state or environment. -/
def OnlyRegisters (s t : State) : Prop :=
  SameMemory s t ∧ t.icache = s.icache ∧ SameControl s t ∧ t.env = s.env

/-- Frame of an instruction whose destination is register `d` and which writes flags. -/
def AluFrame (d : Reg) (s t : State) : Prop :=
  SameRegsBut s t [d] ∧ t.sp = s.sp ∧ t.pc = s.pc + 2#16 ∧ OnlyRegisters s t

/-- Flag `f` of `sr'` is that of `sr`. -/
def FlagKept (sr sr' : Byte) (f : BitNo) : Prop := getFlag sr' f = getFlag sr f

/-- N is bit 7 of the result, Z says that it is 0, V is as given, and S = N ^ V (10_state R25). -/
def ResultFlags (r sr' : Byte) (v : Bool) : Prop :=
  getFlag sr' flagN = r.getLsbD 7 ∧ getFlag sr' flagZ = decide (r = 0#8) ∧ getFlag sr' flagV = v ∧
    getFlag sr' flagS = (r.getLsbD 7 ^^ v)

/-- The new `sr` of the add family, by the formulas of 41_alu R141, `r` the result. -/
def AddFlags (a b r sr sr' : Byte) : Prop :=
  let bit (x : Byte) (i : Nat) : Bool := x.getLsbD i
  getFlag sr' flagH = ((bit a 3 && bit b 3) || (bit b 3 && !bit r 3) || (!bit r 3 && bit a 3)) ∧
  getFlag sr' flagC = ((bit a 7 && bit b 7) || (bit b 7 && !bit r 7) || (!bit r 7 && bit a 7)) ∧
  ResultFlags r sr' ((bit a 7 && bit b 7 && !bit r 7) || (!bit a 7 && !bit b 7 && bit r 7)) ∧
  FlagKept sr sr' flagI ∧ FlagKept sr sr' srReserved

/-- The new `sr` of the subtract and compare family, by the formulas of 41_alu R142. -/
def SubFlags (a b r sr sr' : Byte) : Prop :=
  let bit (x : Byte) (i : Nat) : Bool := x.getLsbD i
  getFlag sr' flagH = ((!bit a 3 && bit b 3) || (bit b 3 && bit r 3) || (bit r 3 && !bit a 3)) ∧
  getFlag sr' flagC = ((!bit a 7 && bit b 7) || (bit b 7 && bit r 7) || (bit r 7 && !bit a 7)) ∧
  ResultFlags r sr' ((bit a 7 && !bit b 7 && !bit r 7) || (!bit a 7 && bit b 7 && bit r 7)) ∧
  FlagKept sr sr' flagI ∧ FlagKept sr sr' srReserved

/-- `AddEval(x[d], b, cin, sr)` into `x[d]` and `sr` (41_alu R141). -/
def AddsInto (s t : State) (d : Reg) (b : Byte) (cin : Bool) : Prop :=
  (t.getReg d).toNat = ((s.getReg d).toNat + b.toNat + cin.toNat) % 256 ∧
    AddFlags (s.getReg d) b (t.getReg d) s.sr t.sr ∧ AluFrame d s t

/-- `r` is `(a - b - bin) mod 256` (41_alu R142). -/
def Difference (a b : Byte) (bin : Bool) (r : Byte) : Prop :=
  (r.toNat : Int) = ((a.toNat : Int) - b.toNat - bin.toNat) % 256

/-- `SubEval(x[d], b, bin, sr)` into `x[d]` and `sr` (41_alu R142). -/
def SubtractsFrom (s t : State) (d : Reg) (b : Byte) (bin : Bool) : Prop :=
  Difference (s.getReg d) b bin (t.getReg d) ∧ SubFlags (s.getReg d) b (t.getReg d) s.sr t.sr ∧ AluFrame d s t

/-- `SubEval(x[d], b, 0, sr)` into `sr`, the difference discarded: every register reads as before (41_alu R148, R156). -/
def Compares (s t : State) (d : Reg) (b : Byte) : Prop :=
  (∃ r, Difference (s.getReg d) b false r ∧ SubFlags (s.getReg d) b r s.sr t.sr) ∧
    SameRegs s t ∧ t.sp = s.sp ∧ t.pc = s.pc + 2#16 ∧ OnlyRegisters s t

/-- `r` into `x[d]` and `LogicEval(r, sr)` into `sr` (41_alu R143). -/
def LogicInto (s t : State) (d : Reg) (bit : Nat → Bool) : Prop :=
  (∀ i, i < 8 → (t.getReg d).getLsbD i = bit i) ∧ ResultFlags (t.getReg d) t.sr false ∧
    FlagKept s.sr t.sr flagC ∧ FlagKept s.sr t.sr flagH ∧ FlagKept s.sr t.sr flagI ∧ FlagKept s.sr t.sr srReserved ∧
    AluFrame d s t

/-- A value into `x[d]`, no flag written (41_alu R152, R153). -/
def MovesInto (s t : State) (d : Reg) (v : Byte) : Prop := t.getReg d = v ∧ t.sr = s.sr ∧ AluFrame d s t

/-- A shift of `x[d]`: the result as a number, the bit shifted out in C, `V = N ^ C`, `S = N ^ V` (42_shift_flag R171). -/
def ShiftsInto (s t : State) (d : Reg) (r : Nat) (out : Bool) : Prop :=
  (t.getReg d).toNat = r ∧ getFlag t.sr flagC = out ∧ ResultFlags (t.getReg d) t.sr ((t.getReg d).getLsbD 7 ^^ out) ∧
    FlagKept s.sr t.sr flagH ∧ FlagKept s.sr t.sr flagI ∧ FlagKept s.sr t.sr srReserved ∧ AluFrame d s t

/-- No register but `pc` and, where the rule says so, `sp` is written, and no flag. -/
def OnlyPc (s t : State) (pc : Addr) : Prop :=
  t.pc = pc ∧ SameRegs s t ∧ t.sr = s.sr ∧ t.sp = s.sp ∧ OnlyRegisters s t

/-- `t.pc` is the address `n` modulo 2^16. -/
def PcIs (t : State) (n : Int) : Prop := (t.pc.toNat : Int) = n % 65536

/-- The core took the stop {reason, code} and nothing else changed (60_exceptions R241, R247). -/
def StopsWith (i : Instr) (s : State) (reason : HaltReason) (code : Nat) : Prop :=
  exec i s = .next { s with halt := some ⟨reason, code⟩, phase := .halted }

/-- What every retiring load, store and stack instruction leaves alone. -/
def SameRest (s t : State) : Prop := t.sr = s.sr ∧ SameControl s t ∧ t.env = s.env

/-- `Skip(cond)` (43_control R191) as the effect of `i`: the width is that of the instruction in memory at `A + 2`. -/
def SkipsIf (i : Instr) (s : State) (cond : Bool) : Prop :=
  Completes i s fun t =>
    t.pc = (if cond then s.pc + 2#16 + BitVec.ofNat 16 (2 * (decode (s.wordAt (s.pc + 2#16))).width) else s.pc + 2#16) ∧
    SameRegs s t ∧ t.sr = s.sr ∧ t.sp = s.sp ∧ SameMemory s t ∧ SameControl s t ∧ t.env = s.env ∧
    CacheCoherent t ∧ (cond = false → t.icache = s.icache)

end Sys2Proof.Statements

open Sys2Proof Sys2Proof.Machine Sys2Proof.Statements

/-! ## Encoding (30_encoding) -/

/-- 30_encoding R84, R86 to R88, R92: decode of encode is the identity on every well-formed instruction, with every operand
at every value. -/
def Obligations.DecodeOfEncodeIsIdentity : Prop := ∀ i : Instr, i.wf = true → decode (encode i) = .legal i

/-- 30_encoding R89, R92: what the decoder reads from a legal word is well formed and encodes to that same word. -/
def Obligations.LegalWordsEncodeBack : Prop := ∀ (w : Word16) (i : Instr), decode w = .legal i → i.wf = true ∧ encode i = w

/-- 30_encoding R93: a word is ILLEGAL exactly in the twelve cases, and dispatching it stops {stopped, SIGILL}. -/
def Obligations.IllegalWordsAreTheTwelveCases : Prop :=
  (∀ w : Word16, decode w = .illegal ↔
    (let n := w.toNat
     let major := n / 0x1000
     let sub4 := n / 0x100 % 16
     let mid := n / 0x10 % 16
     (major = 0x8 ∨ major = 0x9 ∨ major = 0xA ∨ major = 0xB ∨ major = 0xD ∨ major = 0xF) ∨
     (major = 0x0 ∧ sub4 = 0x0 ∧ n % 0x100 ≠ 1 ∧ n % 0x100 ≠ 2 ∧ n % 0x100 ≠ 3) ∨
     (major = 0x0 ∧ (sub4 = 0x2 ∨ sub4 = 0x3) ∧ (n / 8 % 32 ≠ 0 ∨ n % 8 = 7)) ∨
     (major = 0x0 ∧ (sub4 = 0x4 ∨ sub4 = 0x5) ∧ n % 0x100 ≠ 0) ∨
     (major = 0x0 ∧ sub4 = 0x6 ∧ 2 ≤ mid) ∨
     (major = 0x0 ∧ sub4 = 0x7 ∧ 5 ≤ mid) ∨
     (major = 0x0 ∧ (sub4 = 0x8 ∨ sub4 = 0x9) ∧ n / 0x80 % 2 = 1) ∨
     (major = 0x0 ∧ 0xA ≤ sub4) ∨
     (major = 0x1 ∧ (sub4 = 0xE ∨ sub4 = 0xF)) ∨
     (major = 0x1 ∧ 0xA ≤ sub4 ∧ sub4 ≤ 0xD ∧ n % 2 = 1) ∨
     (major = 0x1 ∧ (sub4 = 0xC ∨ sub4 = 0xD) ∧ n / 0x10 % 2 = 1) ∨
     (major = 0xE ∧ sub4 % 8 = 7))) ∧
  ∀ s : State, dispatch .illegal s = .next { s with halt := some ⟨.stopped, 4⟩, phase := .halted }

/-- 30_encoding R89: a legal word selects the row of its instruction, no word selects two rows, and a word is ILLEGAL exactly
where it selects none. -/
def Obligations.OpcodeRowsDecideDecoding : Prop :=
  ∀ w : Word16,
    (∀ i, decode w = .legal i → (rowOf i).selects w = true) ∧
    (∀ i j, (rowOf i).selects w = true → (rowOf j).selects w = true → rowOf i = rowOf j) ∧
    (decode w = .illegal ↔ ∀ i, (rowOf i).selects w = false)

/-- A few words written out from the encodings of 30_encoding decode to the instructions they stand for, one of each format. -/
def Obligations.WrittenWordsDecode : Prop :=
  decode 0b0000000000000011#16 = .legal .ret ∧
  decode 0b0000000100000010#16 = .legal (.trap 2#8) ∧
  decode 0b0000001000000110#16 = .legal (.sef 6#3) ∧
  decode 0b0000010100000000#16 = .legal .call ∧
  decode 0b0000011101001111#16 = .legal (.ror 15#4) ∧
  decode 0b0000100000110101#16 = .legal (.sbrc 3#3 5#4) ∧
  decode 0b0001110101000010#16 = .legal (.stw 4#4 2#4) ∧
  decode 0b0010101001111111#16 = .legal (.ldi 10#4 0x7F#8) ∧
  decode 0b1100100000000000#16 = .legal (.rjmp 0x800#12) ∧
  decode 0b1110011011111110#16 = .legal (.brbc 6#3 0xFE#8)

/-! ## The loop (40_pipeline, 60_exceptions) -/

/-- 40_pipeline R112, R119: where the boundary goes on and the bytes at an even `pc` decode to an instruction, a step is that
instruction's effect on the state that has been fetched and counted, followed by `retire`; the fetch may have filled the
cache, which stays coherent. -/
def Obligations.StepRunsTheDecodedInstruction : Prop :=
  ∀ (s : State) (i : Instr), s.phase = .fetching → s.atBoundary.stopRequest = false → s.pc.toNat % 2 = 0 → CacheCoherent s →
    decode (s.wordAt s.pc) = .legal i →
    ∃ c : DecodeCache,
      let f : State := { s.atBoundary with icache := c, cycles := s.cycles + 1, phase := .dispatching }
      CacheCoherent f ∧ f.pc = s.pc ∧
      (∀ t, exec i f = .next t → step s = .next (t.retire s.pc i)) ∧
      (∀ r, exec i f = .refused r → step s = .refused r)

/-- 40_pipeline R110, R112, R123; 60_exceptions R248, R249: an instruction that stopped the core does not retire; one that
retires leaves FETCHING and the observer's notification, and in single-step mode the stop {stopped, SIGTRAP} instead. -/
def Obligations.RetirementAndSingleStep : Prop :=
  ∀ (s : State) (a : Addr) (i : Instr),
    (s.phase = .halted → s.retire a i = s) ∧
    (s.phase ≠ .halted →
      (s.retire a i).env = { s.env with observed := ⟨a, i⟩ :: s.env.observed } ∧
      (s.retire a i).pc = s.pc ∧ (s.retire a i).sr = s.sr ∧ (s.retire a i).sp = s.sp ∧ SameRegs s (s.retire a i) ∧
      SameMemory s (s.retire a i) ∧ (s.retire a i).icache = s.icache ∧ (s.retire a i).cycles = s.cycles ∧
      (s.env.mode = .singleStep → (s.retire a i).phase = .halted ∧ (s.retire a i).halt = some ⟨.stopped, 5⟩) ∧
      (s.env.mode = .continuous → (s.retire a i).phase = .fetching ∧ (s.retire a i).halt = s.halt))

/-- 45_system R228, 60_exceptions R242: a word that decodes to ILLEGAL stops {stopped, SIGILL} with nothing written and `pc`
at its address; `cycles` has counted it. -/
def Obligations.IllegalWordStopsTheCore : Prop :=
  ∀ s : State, s.phase = .fetching → s.atBoundary.stopRequest = false → s.pc.toNat % 2 = 0 → CacheCoherent s →
    decode (s.wordAt s.pc) = .illegal →
    ∃ t, step s = .next t ∧ t.halt = some ⟨.stopped, 4⟩ ∧ t.phase = .halted ∧ t.pc = s.pc ∧ t.cycles = s.cycles + 1 ∧
      SameRegs s t ∧ t.sr = s.sr ∧ t.sp = s.sp ∧ SameMemory s t ∧ t.loaded = s.loaded

/-- 60_exceptions R243, 40_pipeline R113, R114: a fetch at an odd `pc` stops {stopped, SIGBUS}, `pc` keeps the odd value,
`cycles` does not count and nothing else of the core is written. -/
def Obligations.OddProgramCounterStopsTheCore : Prop :=
  ∀ s : State, s.phase = .fetching → s.atBoundary.stopRequest = false → s.pc.toNat % 2 = 1 →
    ∃ t, step s = .next t ∧ t.halt = some ⟨.stopped, 10⟩ ∧ t.phase = .halted ∧ t.pc = s.pc ∧ t.cycles = s.cycles ∧
      SameRegs s t ∧ t.sr = s.sr ∧ t.sp = s.sp ∧ SameMemory s t ∧ t.icache = s.icache ∧ t.loaded = s.loaded

/-- 60_exceptions R245, R249: a stop request found at the boundary stops {stopped, SIGINT} before any fetch, whatever lies at
`pc`; the request is cleared, `pc` is the address of the next instruction, and `cycles` has not counted it. -/
def Obligations.ExternalStopAtTheBoundary : Prop :=
  ∀ s : State, s.phase = .fetching → s.atBoundary.stopRequest = true →
    ∃ t, step s = .next t ∧ t.halt = some ⟨.stopped, 2⟩ ∧ t.phase = .halted ∧ t.stopRequest = false ∧ t.pc = s.pc ∧
      t.cycles = s.cycles ∧ SameRegs s t ∧ t.sr = s.sr ∧ t.sp = s.sp ∧ SameMemory s t ∧ t.icache = s.icache ∧
      t.loaded = s.loaded

/-- 40_pipeline R120: the poll counter is decremented; at 0 it is reloaded and the host is asked, whose answer is the next of
`env.pollAnswers` where there is one; a pending tick is called; the stop request is the one before, or that answer, or the
tick's quit; and nothing else changes. The lists in `env` are the model's own (logs 6, 7). -/
def Obligations.BoundaryPollsAndTicks : Prop :=
  ∀ s : State, 0 < s.pollCount →
    let polled : Bool := decide (s.pollCount = 1)
    let tick : Tick := s.env.ticks.head?.getD .none
    ∃ answer : Bool, (∀ q rest, s.env.pollAnswers = q :: rest → answer = q) ∧
      s.atBoundary = { s with
        pollCount := if polled then s.env.pollInterval else s.pollCount - 1
        stopRequest := s.stopRequest || (polled && answer) || decide (tick = .pending true)
        env := { s.env with
          pollAnswers := if polled then s.env.pollAnswers.tail else s.env.pollAnswers
          ticks := s.env.ticks.tail
          hostCalls :=
            (if tick = .none then [] else [.eventTick]) ++ (if polled then [.pollQuit] else []) ++ s.env.hostCalls } }

/-! ## Rules over every instruction -/

/-- 60_exceptions R247: an instruction that raises writes nothing but the halt record and the phase. -/
def Obligations.StoppingInstructionsWriteNothing : Prop :=
  ∀ (i : Instr) (s t : State), s.phase ≠ .halted → exec i s = .next t → t.phase = .halted →
    t = { s with halt := t.halt, phase := .halted }

/-- 60_exceptions R241: from an even `pc` exactly BREAK, TRAP 0, TRAP 3 to 255 and the word loads and stores at an odd
address stop the core. -/
def Obligations.OnlyTheListedInstructionsStop : Prop :=
  ∀ (i : Instr) (s t : State), s.phase ≠ .halted → s.pc.toNat % 2 = 0 → exec i s = .next t →
    (t.phase = .halted ↔
      i = .brk ∨ (∃ k, i = .trap k ∧ k ≠ 1#8 ∧ k ≠ 2#8) ∨
      (∃ d r, (i = .ldw d r ∨ i = .stw d r) ∧ (s.getPair r).toNat % 2 = 1))

namespace Sys2Proof.Statements

/-- The table of 10_state R26: which flags an instruction may write. -/
def mayWriteFlag : Instr → BitNo → Bool
  | .add .., f | .adc .., f | .addi .., f | .sub .., f | .sbc .., f | .subi .., f | .cp .., f | .cpi .., f =>
    f != flagI && f != srReserved
  | .and .., f | .or .., f | .xor .., f | .andi .., f | .ori .., f => f == flagZ || f == flagN || f == flagV || f == flagS
  | .lsl .., f | .lsr .., f | .asr .., f | .rol .., f | .ror .., f =>
    f == flagZ || f == flagC || f == flagN || f == flagV || f == flagS
  | .sef b, f | .clf b, f => f == b
  | _, _ => false

/-- The instructions that assign `pc` themselves (40_pipeline R118). -/
def assignsPc : Instr → Bool
  | .rjmp .. | .brbc .. | .brbs .. | .jmp | .call | .ret | .cpse .. | .sbrc .. | .sbrs .. => true
  | _ => false

/-- The instructions that write memory (20_memory R57). -/
def mayWriteMemory : Instr → Bool
  | .stb .. | .stw .. | .push .. | .call => true
  | .trap k => k == 2#8
  | _ => false

/-- The instructions that write `sp` (10_state R29). -/
def mayWriteSp : Instr → Bool
  | .push .. | .pop .. | .call | .ret => true
  | _ => false

end Sys2Proof.Statements

/-- 10_state R26: no instruction writes a flag outside its row of the table, and none that is in no row writes `sr`. -/
def Obligations.FlagsAreWrittenAsListed : Prop :=
  ∀ (i : Instr) (s t : State) (f : BitNo), exec i s = .next t → mayWriteFlag i f = false →
    getFlag t.sr f = getFlag s.sr f

/-- 40_pipeline R118: an instruction that does not assign `pc` and retires leaves `pc` at `A + 2`, modulo 2^16. -/
def Obligations.DefaultAdvanceIsOneWord : Prop :=
  ∀ (i : Instr) (s t : State), assignsPc i = false → s.phase ≠ .halted → exec i s = .next t → t.phase ≠ .halted →
    t.pc.toNat = (s.pc.toNat + 2) % 65536

/-- 20_memory R57, 10_state R29: only STB, STW, PUSH, CALL and TRAP 2 change a byte of memory, and only PUSH, POP, CALL and RET
change `sp`. -/
def Obligations.OnlyTheListedInstructionsWriteMemoryOrSp : Prop :=
  ∀ (i : Instr) (s t : State), exec i s = .next t →
    (mayWriteMemory i = false → SameMemory s t) ∧ (mayWriteSp i = false → t.sp = s.sp)

/-- 10_state R33, R36, R37, 40_pipeline R114: no instruction reaches the counters, the stop request, the loaded bit, the poll
interval, the mode, or the polls, ticks and harness calls to come; the phase is as before or HALTED, so none starts a run. -/
def Obligations.InstructionsLeaveTheDispatcherAlone : Prop :=
  ∀ (i : Instr) (s t : State), exec i s = .next t →
    t.cycles = s.cycles ∧ t.pollCount = s.pollCount ∧ t.stopRequest = s.stopRequest ∧ t.loaded = s.loaded ∧
    t.env.pollInterval = s.env.pollInterval ∧ t.env.mode = s.env.mode ∧ t.env.commands = s.env.commands ∧
    t.env.pollAnswers = s.env.pollAnswers ∧ t.env.ticks = s.env.ticks ∧ t.env.replies = s.env.replies ∧
    t.env.observed = s.env.observed ∧ (t.phase = s.phase ∨ t.phase = .halted)

/-! ## The invariant -/

/-- 40_pipeline R117, 10_state R27, R35, R36, 60_exceptions R246, 80_host R317: every step keeps the invariant: the cache is
coherent with memory, memory and cache are in canonical form, bit 7 of `sr` is 0, the poll counter is in its range, the halt
record is one P0 produces and never `signalled`, and a run executes only on a loaded image. The canonical forms are the
model's own (log 10). -/
def Obligations.EveryStepKeepsTheInvariant : Prop := ∀ s t : State, Inv s → step s = .next t → Inv t

/-- 70_reset R280: the state after reset satisfies the invariant. -/
def Obligations.ResetSatisfiesTheInvariant : Prop := Inv State.reset

/-- 70_reset R280, 10_state R39: every field of the context record after reset. The environment is the model's own. -/
def Obligations.ResetLeavesTheStatedValues : Prop :=
  (∀ i, State.reset.getReg i = 0#8) ∧ State.reset.sr = 0#8 ∧ State.reset.sp = 0#16 ∧ State.reset.pc = 0#16 ∧
  (∀ a, State.reset.byteAt a = 0#8) ∧ (∀ i, tableFind State.reset.icache i = none) ∧ State.reset.cycles = 0 ∧
  State.reset.phase = .halted ∧ State.reset.halt = none ∧ State.reset.pollCount = State.reset.env.pollInterval ∧
  State.reset.stopRequest = false ∧ State.reset.loaded = false

/-- 40_pipeline R117 (its derived consequence): in a coherent cache a fetch at an even address always gives the decode of the
bytes in memory, changes nothing but the cache, and keeps it coherent. -/
def Obligations.CoherentFetchDecodesMemory : Prop :=
  ∀ (s : State) (a : Addr), CacheCoherent s → a.toNat % 2 = 0 →
    ∃ s', s.fetch a = some (decode (s.wordAt a), s') ∧ SameButCache s s' ∧ CacheCoherent s'

/-- 10_state R32, 40_pipeline R117: the decode cache is invisible. That two states differ in their caches alone, both coherent,
is kept by every step: both are refused alike, or step to two such states again. -/
def Obligations.DecodeCacheIsInvisible : Prop :=
  ∀ s u : State, SameButCoherentCache s u → SameOutcomeButCache (step s) (step u)

/-- 20_memory R66, 70_reset R285: after any write of the primitive, and after any bytes stored by TRAP 2 or the harness, the
next fetch anywhere decodes the new bytes. -/
def Obligations.StoresAreSeenByTheNextFetch : Prop :=
  ∀ (s : State), CacheCoherent s →
    (∀ (a : Addr) (n : Width) (v : BitVec (8 * n.bytes)) (t : State) (b : Addr), s.memWrite a n v = some t →
      b.toNat % 2 = 0 → ∃ u, t.fetch b = some (decode (t.wordAt b), u)) ∧
    (∀ (a : Addr) (vs : List Byte) (b : Addr), b.toNat % 2 = 0 →
      ∃ u, (s.writeBytes a vs).fetch b = some (decode ((s.writeBytes a vs).wordAt b), u))

/-! ## Memory access (20_memory) -/

/-- 20_memory R53: a read fails exactly where its width does not divide the address; else byte `j` of the result is the byte
at `a + j`. -/
def Obligations.MemoryReadRule : Prop :=
  ∀ (s : State) (a : Addr) (n : Width),
    (s.memRead a n = none ↔ a.toNat % n.bytes ≠ 0) ∧
    ∀ v, s.memRead a n = some v → ∀ j, j < n.bytes → v.extractLsb' (8 * j) 8 = s.byteAt (a + BitVec.ofNat 16 j)

/-- 20_memory R54: a write fails exactly where its width does not divide the address; else byte `a + j` holds bits
8j+7 to 8j of the value, every other byte is as before, exactly the slots of the written bytes are emptied, and nothing else
changes; reading it back gives the value. -/
def Obligations.MemoryWriteRule : Prop :=
  ∀ (s : State) (a : Addr) (n : Width) (v : BitVec (8 * n.bytes)),
    (s.memWrite a n v = none ↔ a.toNat % n.bytes ≠ 0) ∧
    ∀ t, s.memWrite a n v = some t →
      (∀ j, j < n.bytes → t.byteAt (a + BitVec.ofNat 16 j) = v.extractLsb' (8 * j) 8) ∧
      SameMemoryBut s t ((List.range n.bytes).map fun j => a + BitVec.ofNat 16 j) ∧
      SlotsEmptied s t ((List.range n.bytes).map fun j => slotOf (a + BitVec.ofNat 16 j)) ∧
      t.memRead a n = some v ∧
      SameRegs s t ∧ t.sr = s.sr ∧ t.sp = s.sp ∧ t.pc = s.pc ∧ SameControl s t ∧ t.env = s.env

/-! ## Arithmetic and logic (41_alu) -/

/-- 41_alu R141, R144, R145, R154: ADD, ADC and ADDI complete in every state, for every register, with this result, these
flags, this encoding and this frame. -/
def Obligations.AddInstructionsAdd : Prop :=
  ∀ (s : State) (d r : Reg) (k : Byte),
    Encoded (.add d r) 0x1000#16 0xFF00#16 ∧ Encoded (.adc d r) 0x1100#16 0xFF00#16 ∧
    Encoded (.addi d k) 0x3000#16 0xF000#16 ∧
    Completes (.add d r) s (fun t => AddsInto s t d (s.getReg r) false) ∧
    Completes (.adc d r) s (fun t => AddsInto s t d (s.getReg r) (getFlag s.sr flagC)) ∧
    Completes (.addi d k) s (fun t => AddsInto s t d k false)

/-- 41_alu R142, R146, R147, R155: SUB, SBC and SUBI; Z is of this result only. -/
def Obligations.SubtractInstructionsSubtract : Prop :=
  ∀ (s : State) (d r : Reg) (k : Byte),
    Encoded (.sub d r) 0x1200#16 0xFF00#16 ∧ Encoded (.sbc d r) 0x1300#16 0xFF00#16 ∧
    Encoded (.subi d k) 0x4000#16 0xF000#16 ∧
    Completes (.sub d r) s (fun t => SubtractsFrom s t d (s.getReg r) false) ∧
    Completes (.sbc d r) s (fun t => SubtractsFrom s t d (s.getReg r) (getFlag s.sr flagC)) ∧
    Completes (.subi d k) s (fun t => SubtractsFrom s t d k false)

/-- 41_alu R142, R148, R156: CP and CPI write `sr` only. -/
def Obligations.CompareInstructionsWriteFlagsOnly : Prop :=
  ∀ (s : State) (d r : Reg) (k : Byte),
    Encoded (.cp d r) 0x1400#16 0xFF00#16 ∧ Encoded (.cpi d k) 0x5000#16 0xF000#16 ∧
    Completes (.cp d r) s (fun t => Compares s t d (s.getReg r)) ∧
    Completes (.cpi d k) s (fun t => Compares s t d k)

/-- 41_alu R143, R149 to R151, R157, R158: AND, OR, XOR, ANDI and ORI, bit by bit. -/
def Obligations.LogicInstructionsAreBitwise : Prop :=
  ∀ (s : State) (d r : Reg) (k : Byte),
    let x (i : Nat) : Bool := (s.getReg d).getLsbD i
    let y (i : Nat) : Bool := (s.getReg r).getLsbD i
    Encoded (.and d r) 0x1500#16 0xFF00#16 ∧ Encoded (.or d r) 0x1600#16 0xFF00#16 ∧
    Encoded (.xor d r) 0x1700#16 0xFF00#16 ∧ Encoded (.andi d k) 0x6000#16 0xF000#16 ∧
    Encoded (.ori d k) 0x7000#16 0xF000#16 ∧
    Completes (.and d r) s (fun t => LogicInto s t d fun i => x i && y i) ∧
    Completes (.or d r) s (fun t => LogicInto s t d fun i => x i || y i) ∧
    Completes (.xor d r) s (fun t => LogicInto s t d fun i => x i ^^ y i) ∧
    Completes (.andi d k) s (fun t => LogicInto s t d fun i => x i && k.getLsbD i) ∧
    Completes (.ori d k) s (fun t => LogicInto s t d fun i => x i || k.getLsbD i)

/-- 41_alu R152, R153: MOV and LDI write their register and no flag. -/
def Obligations.MovesWriteOneRegister : Prop :=
  ∀ (s : State) (d r : Reg) (k : Byte),
    Encoded (.mov d r) 0x1800#16 0xFF00#16 ∧ Encoded (.ldi d k) 0x2000#16 0xF000#16 ∧
    Completes (.mov d r) s (fun t => MovesInto s t d (s.getReg r)) ∧
    Completes (.ldi d k) s (fun t => MovesInto s t d k)

/-- 41_alu R141, the readings the spec marks as derived from the formulas: C is the unsigned carry, H the carry of the low
nibble, V says that the signed sum does not fit in 8 bits, S is the sign of the exact signed sum. -/
def Obligations.AddFlagsReadArithmetically : Prop :=
  ∀ (a b : Byte) (cin : Bool) (sr : Byte),
    (getFlag (addFlags a b cin sr) flagC = true ↔ 255 < a.toNat + b.toNat + cin.toNat) ∧
    (getFlag (addFlags a b cin sr) flagH = true ↔ 15 < a.toNat % 16 + b.toNat % 16 + cin.toNat) ∧
    (getFlag (addFlags a b cin sr) flagV = true ↔
      a.toInt + b.toInt + cin.toNat < -128 ∨ 127 < a.toInt + b.toInt + cin.toNat) ∧
    (getFlag (addFlags a b cin sr) flagS = true ↔ a.toInt + b.toInt + cin.toNat < 0)

/-- 41_alu R142, the readings the spec marks as derived: C is the unsigned borrow, H the borrow of the low nibble, V says that
the signed difference does not fit, S is the sign of the exact signed difference. -/
def Obligations.SubFlagsReadArithmetically : Prop :=
  ∀ (a b : Byte) (bin : Bool) (sr : Byte),
    (getFlag (subFlags a b bin sr) flagC = true ↔ a.toNat < b.toNat + bin.toNat) ∧
    (getFlag (subFlags a b bin sr) flagH = true ↔ a.toNat % 16 < b.toNat % 16 + bin.toNat) ∧
    (getFlag (subFlags a b bin sr) flagV = true ↔
      a.toInt - b.toInt - bin.toNat < -128 ∨ 127 < a.toInt - b.toInt - bin.toNat) ∧
    (getFlag (subFlags a b bin sr) flagS = true ↔ a.toInt - b.toInt - bin.toNat < 0)

/-- 30_encoding R97 with 41_alu R148 (derived by the spec): after CP, the branches on Z, C and S are taken exactly on equal,
unsigned lower and signed less than. -/
def Obligations.CompareThenBranchDecidesOrder : Prop :=
  ∀ (s t : State) (d r : Reg) (k : Byte), exec (.cp d r) s = .next t →
    let target : Addr := t.pc + 2#16 + (k.signExtend 16 <<< 1)
    let next : Addr := t.pc + 2#16
    let goes (i : Instr) (taken : Bool) : Prop := Completes i t fun u => u.pc = if taken then target else next
    goes (.brbs flagZ k) (s.getReg d == s.getReg r) ∧
    goes (.brbs flagC k) (decide ((s.getReg d).toNat < (s.getReg r).toNat)) ∧
    goes (.brbs flagS k) (decide ((s.getReg d).toInt < (s.getReg r).toInt)) ∧
    goes (.brbc flagZ k) (s.getReg d != s.getReg r) ∧
    goes (.brbc flagC k) (decide ((s.getReg r).toNat ≤ (s.getReg d).toNat)) ∧
    goes (.brbc flagS k) (decide ((s.getReg r).toInt ≤ (s.getReg d).toInt))

/-- 41_alu R159: an ADD of the low bytes and then an ADC of the high bytes add two 16-bit values held in four registers, and C
is the carry out of the sum. -/
def Obligations.AddThenAdcAddsSixteenBits : Prop :=
  ∀ (s t u : State) (lo lo' hi hi' : Reg), hi ≠ lo → hi' ≠ lo →
    exec (.add lo lo') s = .next t → exec (.adc hi hi') t = .next u →
    let sum : Nat := 256 * (s.getReg hi).toNat + (s.getReg lo).toNat + (256 * (s.getReg hi').toNat + (s.getReg lo').toNat)
    256 * (u.getReg hi).toNat + (u.getReg lo).toNat = sum % 65536 ∧
      (getFlag u.sr flagC = true ↔ 65536 ≤ sum)

/-! ## Shifts, flags, no operation (42_shift_flag) -/

/-- 42_shift_flag R171 to R176: the five shifts as arithmetic on the register's number, the bit shifted out in C. The rule
V = N ^ C is R171's own; the spec says it borrowed it (93_implementation_defined G2). -/
def Obligations.ShiftInstructionsShiftByOne : Prop :=
  ∀ (s : State) (d : Reg),
    let a := (s.getReg d).toNat
    let c := (getFlag s.sr flagC).toNat
    Encoded (.lsl d) 0x0700#16 0xFFF0#16 ∧ Encoded (.lsr d) 0x0710#16 0xFFF0#16 ∧ Encoded (.asr d) 0x0720#16 0xFFF0#16 ∧
    Encoded (.rol d) 0x0730#16 0xFFF0#16 ∧ Encoded (.ror d) 0x0740#16 0xFFF0#16 ∧
    Completes (.lsl d) s (fun t => ShiftsInto s t d (2 * a % 256) (decide (128 ≤ a))) ∧
    Completes (.lsr d) s (fun t => ShiftsInto s t d (a / 2) (decide (a % 2 = 1))) ∧
    Completes (.asr d) s (fun t => ShiftsInto s t d (a / 2 + 128 * (a / 128)) (decide (a % 2 = 1))) ∧
    Completes (.rol d) s (fun t => ShiftsInto s t d (2 * a % 256 + c) (decide (128 ≤ a))) ∧
    Completes (.ror d) s (fun t => ShiftsInto s t d (128 * c + a / 2) (decide (a % 2 = 1)))

/-- 42_shift_flag R177, R178, R179: SEF and CLF, b in 0..6, set and clear the one flag they name, every other bit of `sr` unchanged; NOP
writes nothing; all go to `A + 2`. -/
def Obligations.FlagInstructionsWriteOneFlag : Prop :=
  ∀ (s : State) (b : BitNo),
    (b ≠ 7#3 →
      Encoded (.sef b) 0x0200#16 0xFFF8#16 ∧ Encoded (.clf b) 0x0300#16 0xFFF8#16 ∧
      Completes (.sef b) s (fun t => getFlag t.sr b = true ∧ (∀ f, f ≠ b → FlagKept s.sr t.sr f) ∧
        SameRegs s t ∧ t.sp = s.sp ∧ t.pc = s.pc + 2#16 ∧ OnlyRegisters s t) ∧
      Completes (.clf b) s (fun t => getFlag t.sr b = false ∧ (∀ f, f ≠ b → FlagKept s.sr t.sr f) ∧
        SameRegs s t ∧ t.sp = s.sp ∧ t.pc = s.pc + 2#16 ∧ OnlyRegisters s t)) ∧
    Encoded .nop 0x0001#16 0xFFFF#16 ∧
    Completes .nop s (fun t => OnlyPc s t (s.pc + 2#16))

/-! ## Control transfer (43_control) -/

/-- 43_control R185, R186, R187: the target of a relative transfer is `A + 2 + 2 * k`, k signed, modulo 2^16; a branch, b in
0..6, that is not taken goes to `A + 2`; nothing else changes. -/
def Obligations.RelativeTransfersReachTheirTarget : Prop :=
  ∀ (s : State) (k12 : BitVec 12) (b : BitNo) (k : Byte),
    let taken : Int := s.pc.toNat + 2 + 2 * k.toInt
    let next : Int := s.pc.toNat + 2
    Encoded (.rjmp k12) 0xC000#16 0xF000#16 ∧
    Completes (.rjmp k12) s (fun t => PcIs t (s.pc.toNat + 2 + 2 * k12.toInt) ∧ OnlyPc s t t.pc) ∧
    (b ≠ 7#3 →
      Encoded (.brbc b k) 0xE000#16 0xF800#16 ∧ Encoded (.brbs b k) 0xE800#16 0xF800#16 ∧
      Completes (.brbc b k) s (fun t => PcIs t (if getFlag s.sr b then next else taken) ∧ OnlyPc s t t.pc) ∧
      Completes (.brbs b k) s (fun t => PcIs t (if getFlag s.sr b then taken else next) ∧ OnlyPc s t t.pc))

/-- 43_control R188: JMP goes to the word in memory at `A + 2`, whatever it is. -/
def Obligations.JumpGoesToItsSecondWord : Prop :=
  Encoded .jmp 0x0400#16 0xFFFF#16 ∧
  ∀ s : State, s.pc.toNat % 2 = 0 → Completes .jmp s (fun t => OnlyPc s t (s.wordAt (s.pc + 2#16)))

/-- 43_control R189: CALL stores `A + 4`, high byte at `sp - 1` and low byte at `sp - 2`, emptying their slots, lowers `sp` by
two and goes to the word that was at `A + 2`. -/
def Obligations.CallPushesTheReturnAddress : Prop :=
  Encoded .call 0x0500#16 0xFFFF#16 ∧
  ∀ s : State, s.pc.toNat % 2 = 0 → Completes .call s (fun t =>
    t.pc = s.wordAt (s.pc + 2#16) ∧ t.sp = s.sp - 2#16 ∧
    (t.byteAt (s.sp - 1#16)).toNat = (s.pc.toNat + 4) % 65536 / 256 ∧
    (t.byteAt (s.sp - 2#16)).toNat = (s.pc.toNat + 4) % 256 ∧
    SameMemoryBut s t [s.sp - 1#16, s.sp - 2#16] ∧ SlotsEmptied s t [slotOf (s.sp - 1#16), slotOf (s.sp - 2#16)] ∧
    SameRegs s t ∧ SameRest s t)

/-- 43_control R190: RET pops the low byte at `sp` and the high byte at `sp + 1`. -/
def Obligations.ReturnPopsTheAddress : Prop :=
  Encoded .ret 0x0003#16 0xFFFF#16 ∧
  ∀ s : State, Completes .ret s (fun t =>
    t.pc.toNat = 256 * (s.byteAt (s.sp + 1#16)).toNat + (s.byteAt s.sp).toNat ∧ t.sp = s.sp + 2#16 ∧
    SameRegs s t ∧ t.sr = s.sr ∧ OnlyRegisters s t)

/-- 43_control R189, R190: a RET that finds the stack as a CALL left it goes to the address after both words of the CALL and
restores `sp`, wherever the subroutine lies and whatever else it did. -/
def Obligations.CallThenReturnComesBack : Prop :=
  ∀ s t u v : State, s.pc.toNat % 2 = 0 → exec .call s = .next t →
    u.sp = t.sp → (∀ a, a = t.sp ∨ a = t.sp + 1#16 → u.byteAt a = t.byteAt a) → exec .ret u = .next v →
    v.pc = s.pc + 4#16 ∧ v.sp = s.sp

/-- 43_control R191 to R194: a taken skip passes the whole following instruction, two words where it is JMP or CALL and one
otherwise, ILLEGAL included, and executes nothing of it; one not taken goes to `A + 2` and does not look. -/
def Obligations.SkipsPassOneWholeInstruction : Prop :=
  ∀ (s : State) (d r : Reg) (b : BitNo),
    Encoded (.cpse d r) 0x1900#16 0xFF00#16 ∧ Encoded (.sbrc b r) 0x0800#16 0xFF80#16 ∧
    Encoded (.sbrs b r) 0x0900#16 0xFF80#16 ∧
    (s.pc.toNat % 2 = 0 → CacheCoherent s →
      SkipsIf (.cpse d r) s (s.getReg d == s.getReg r) ∧
      SkipsIf (.sbrc b r) s (!(s.getReg r).getLsbD b.toNat) ∧
      SkipsIf (.sbrs b r) s ((s.getReg r).getLsbD b.toNat))

/-- Log 12: with an odd `pc`, which no run reaches (20_memory R56), JMP, CALL and a taken skip stop with the bus error of the
misaligned read at `A + 2`; a skip not taken does not look. The model's own choice. -/
def Obligations.SecondWordsAtAnOddAddressStop : Prop :=
  ∀ (s : State) (d r : Reg) (b : BitNo), s.pc.toNat % 2 = 1 →
    StopsWith .jmp s .stopped 10 ∧ StopsWith .call s .stopped 10 ∧
    (s.getReg d = s.getReg r → StopsWith (.cpse d r) s .stopped 10) ∧
    (s.getReg d ≠ s.getReg r → exec (.cpse d r) s = .next { s with pc := s.pc + 2#16 }) ∧
    ((s.getReg r).getLsbD b.toNat = false → StopsWith (.sbrc b r) s .stopped 10 ∧
      exec (.sbrs b r) s = .next { s with pc := s.pc + 2#16 }) ∧
    ((s.getReg r).getLsbD b.toNat = true → StopsWith (.sbrs b r) s .stopped 10 ∧
      exec (.sbrc b r) s = .next { s with pc := s.pc + 2#16 })

/-! ## Loads, stores, stack (44_loadstore) -/

/-- 44_loadstore R205, R206: LDB and STB move one byte at the address in the pair, read before anything is written. -/
def Obligations.ByteLoadsAndStores : Prop :=
  ∀ (s : State) (d r : Reg), pairNumberOk r = true →
    Encoded (.ldb d r) 0x1A00#16 0xFF01#16 ∧ Encoded (.stb d r) 0x1B00#16 0xFF01#16 ∧
    Completes (.ldb d r) s (fun t => t.getReg d = s.byteAt (s.getPair r) ∧ SameRegsBut s t [d] ∧
      t.sp = s.sp ∧ t.pc = s.pc + 2#16 ∧ t.sr = s.sr ∧ OnlyRegisters s t) ∧
    Completes (.stb d r) s (fun t => t.byteAt (s.getPair r) = s.getReg d ∧ SameMemoryBut s t [s.getPair r] ∧
      SlotsEmptied s t [slotOf (s.getPair r)] ∧ SameRegs s t ∧ t.sp = s.sp ∧ t.pc = s.pc + 2#16 ∧ SameRest s t)

/-- 44_loadstore R207, R208: at an even address LDW loads and STW stores the pair, the even register with the byte at the lower
address; at an odd one both stop {stopped, SIGBUS} with nothing written. -/
def Obligations.WordLoadsAndStores : Prop :=
  ∀ (s : State) (d r : Reg), pairNumberOk d = true → pairNumberOk r = true →
    let a := s.getPair r
    Encoded (.ldw d r) 0x1C00#16 0xFF11#16 ∧ Encoded (.stw d r) 0x1D00#16 0xFF11#16 ∧
    (a.toNat % 2 = 0 →
      Completes (.ldw d r) s (fun t => t.getReg d = s.byteAt a ∧ t.getReg (d + 1#4) = s.byteAt (a + 1#16) ∧
        SameRegsBut s t [d, d + 1#4] ∧ t.sp = s.sp ∧ t.pc = s.pc + 2#16 ∧ t.sr = s.sr ∧ OnlyRegisters s t) ∧
      Completes (.stw d r) s (fun t => t.byteAt a = s.getReg d ∧ t.byteAt (a + 1#16) = s.getReg (d + 1#4) ∧
        SameMemoryBut s t [a, a + 1#16] ∧ SlotsEmptied s t [slotOf a] ∧
        SameRegs s t ∧ t.sp = s.sp ∧ t.pc = s.pc + 2#16 ∧ SameRest s t)) ∧
    (a.toNat % 2 = 1 → StopsWith (.ldw d r) s .stopped 10 ∧ StopsWith (.stw d r) s .stopped 10)

/-- 44_loadstore R209, R210: PUSH stores at `sp - 1` and lowers `sp`; POP loads at `sp` and raises it; modulo 2^16, at every
`sp`. -/
def Obligations.PushAndPopMoveOneByte : Prop :=
  ∀ (s : State) (r : Reg),
    Encoded (.push r) 0x0600#16 0xFFF0#16 ∧ Encoded (.pop r) 0x0610#16 0xFFF0#16 ∧
    Completes (.push r) s (fun t => t.byteAt (s.sp - 1#16) = s.getReg r ∧ t.sp = s.sp - 1#16 ∧
      SameMemoryBut s t [s.sp - 1#16] ∧ SlotsEmptied s t [slotOf (s.sp - 1#16)] ∧
      SameRegs s t ∧ t.pc = s.pc + 2#16 ∧ SameRest s t) ∧
    Completes (.pop r) s (fun t => t.getReg r = s.byteAt s.sp ∧ t.sp = s.sp + 1#16 ∧
      SameRegsBut s t [r] ∧ t.pc = s.pc + 2#16 ∧ t.sr = s.sr ∧ OnlyRegisters s t)

/-- 44_loadstore R209, R210: what a PUSH stored, the next POP gives back, and `sp` is restored. -/
def Obligations.PopGivesBackWhatWasPushed : Prop :=
  ∀ (s t u : State) (r d : Reg), exec (.push r) s = .next t → exec (.pop d) t = .next u →
    u.getReg d = s.getReg r ∧ u.sp = s.sp ∧ ∀ j, j ≠ d → u.getReg j = s.getReg j

/-! ## System instructions (45_system) -/

/-- 45_system R223, R226, R227: TRAP 0 stops {exited, x[0]}; TRAP 3 to 255 and BREAK stop {stopped, SIGTRAP}; nothing else is
written and `pc` stays. -/
def Obligations.ExitTrapAndBreakStop : Prop :=
  (∀ k, Encoded (.trap k) 0x0100#16 0xFF00#16) ∧ Encoded .brk 0x0002#16 0xFFFF#16 ∧
  ∀ s : State,
    StopsWith (.trap 0#8) s .exited (s.getReg 0#4).toNat ∧
    (∀ k : Byte, 3 ≤ k.toNat → StopsWith (.trap k) s .stopped 5) ∧
    StopsWith .brk s .stopped 5

namespace Sys2Proof.Statements

/-- A syscall returned `value` in `xp[0]` and `errno` in `x[6]` and retired; every other register, `sr`, `sp` are as before
(45_system R221). -/
def SyscallReturned (s t : State) (value : Nat) (errno : Byte) : Prop :=
  (t.getReg 0#4).toNat = value % 256 ∧ (t.getReg 1#4).toNat = value / 256 % 256 ∧ t.getReg 6#4 = errno ∧
  SameRegsBut s t [0#4, 1#4, 6#4] ∧ t.sr = s.sr ∧ t.sp = s.sp ∧ t.pc = s.pc + 2#16 ∧ SameControl s t

/-- What TRAP 1 hands to the host: the bytes at `xp[2]`, `xp[4]` of them, ascending and wrapping (45_system R224). -/
def IsWriteBuffer (s : State) (data : List Byte) : Prop :=
  data.length = (s.getPair 4#4).toNat ∧
  ∀ j, j < data.length → data[j]? = some (s.byteAt (s.getPair 2#4 + BitVec.ofNat 16 j))

/-- TRAP 1 from `s` with the host's answer `ans`, `rest` the answers left (45_system R224): the host received exactly the
buffer, the count or -1 and the errno are returned, and memory and cache are unchanged. -/
def WroteWith (s t : State) (ans : WriteAnswer) (rest : List WriteAnswer) : Prop :=
  (match ans with
    | .success n => SyscallReturned s t n 0#8
    | .failure e => SyscallReturned s t 0xFFFF e) ∧
  (∃ data, IsWriteBuffer s data ∧
    t.env = { s.env with writeAnswers := rest, hostCalls := .write (s.getReg 0#4) data :: s.env.hostCalls }) ∧
  SameMemory s t ∧ t.icache = s.icache

/-- TRAP 2 from `s` with the host's answer `ans`, `rest` the answers left (45_system R225): the bytes are stored from `xp[2]`
on, ascending and wrapping, emptying their slots, and their number is returned; a failure leaves memory and cache unchanged. -/
def ReadWith (s t : State) (ans : ReadAnswer) (rest : List ReadAnswer) : Prop :=
  (match ans with
    | .success data =>
      SyscallReturned s t data.length 0#8 ∧
      (∀ j, j < data.length → data[j]? = some (t.byteAt (s.getPair 2#4 + BitVec.ofNat 16 j))) ∧
      SameMemoryBut s t ((List.range data.length).map fun j => s.getPair 2#4 + BitVec.ofNat 16 j) ∧
      SlotsEmptied s t ((List.range data.length).map fun j => slotOf (s.getPair 2#4 + BitVec.ofNat 16 j))
    | .failure e => SyscallReturned s t 0xFFFF e ∧ SameMemory s t ∧ t.icache = s.icache) ∧
  t.env = { s.env with
    readAnswers := rest
    hostCalls := .read (s.getReg 0#4) (s.getPair 4#4).toNat :: s.env.hostCalls }

end Sys2Proof.Statements

/-- 45_system R221, R222, R224: TRAP 1 completes for every answer within the contract: the host received exactly the buffer, the
count or -1 and the errno are returned, and memory and cache are unchanged. The answer to come is `env.writeAnswers`' first
one (log 4). -/
def Obligations.TrapWriteHandsTheBufferToTheHost : Prop :=
  ∀ (s : State) (ans : WriteAnswer) (rest : List WriteAnswer),
    s.env.writeAnswers = ans :: rest → ans.allowed (s.getPair 4#4).toNat = true →
    Completes (.trap 1#8) s fun t => WroteWith s t ans rest

/-- 45_system R221, R222, R225: TRAP 2 completes for every answer within the contract: the bytes are stored from `xp[2]` on,
ascending and wrapping, emptying their slots, and their number is returned; a failure leaves memory unchanged. The answer to
come is `env.readAnswers`' first one (log 4). -/
def Obligations.TrapReadStoresTheHostsBytes : Prop :=
  ∀ (s : State) (ans : ReadAnswer) (rest : List ReadAnswer),
    s.env.readAnswers = ans :: rest → ans.allowed (s.getPair 4#4).toNat = true →
    Completes (.trap 2#8) s fun t => ReadWith s t ans rest

/-- 45_system R222, 93_implementation_defined U5, U6: where the environment holds no answer, TRAP 1 and TRAP 2 complete all the
same, with the effect they have for some answer within the contract, which nothing else constrains; and an answer outside the
contract is refused (logs 4, 5). -/
def Obligations.HostAnswersStayWithinTheContract : Prop :=
  (∀ s : State, s.env.writeAnswers = [] →
    ∃ ans : WriteAnswer, ans.allowed (s.getPair 4#4).toNat = true ∧
      Completes (.trap 1#8) s fun t => WroteWith s t ans []) ∧
  (∀ s : State, s.env.readAnswers = [] →
    ∃ ans : ReadAnswer, ans.allowed (s.getPair 4#4).toNat = true ∧
      Completes (.trap 2#8) s fun t => ReadWith s t ans []) ∧
  (∀ (s : State) (n : Nat) (rest : List WriteAnswer), s.env.writeAnswers = .success n :: rest →
    (s.getPair 4#4).toNat < n → exec (.trap 1#8) s = .refused .hostAnswerOutsideContract) ∧
  (∀ (s : State) (data : List Byte) (rest : List ReadAnswer), s.env.readAnswers = .success data :: rest →
    (s.getPair 4#4).toNat < data.length → exec (.trap 2#8) s = .refused .hostAnswerOutsideContract)

namespace Sys2Proof.Statements

/-- The harness call `c` in `s` answers `t` with `r` returned (recorded in `env.replies`, log 8). -/
def Returns (c : Command) (s t : State) (r : Reply) : Prop :=
  harnessCall c s = .next { t with env := { t.env with replies := r :: t.env.replies } }

end Sys2Proof.Statements

/-! ## The harness (80_host, 70_reset) -/

/-- 80_host R312, R313, R322: a register stored through the harness is read back, for every index, and no other index changes;
bit 7 of `sr` alone is not stored; and the call `register_store` of a HALTED core answers that state and returns the width. -/
def Obligations.StoredRegistersReadBack : Prop :=
  ∀ (s : State) (i : Nat) (bytes : List Byte), i ≤ 18 → bytes.length = (if i ≤ 16 then 1 else 2) →
    ∃ t, s.registerStore i bytes = some (bytes.length, t) ∧
      t.registerGet i = some (if i = 16 then bytes.map (· &&& 0x7F#8) else bytes) ∧
      (∀ j, j ≠ i → t.registerGet j = s.registerGet j) ∧
      SameMemory s t ∧ t.icache = s.icache ∧ SameControl s t ∧ t.env = s.env ∧
      (s.phase = .halted → Returns (.registerStore i bytes) s t (.count bytes.length))

/-- 80_host R312, R314: a store of the wrong length returns 0 and changes nothing; an index above 18 has no result, and the call
is refused. -/
def Obligations.HarnessRegisterErrors : Prop :=
  ∀ (s : State) (i : Nat) (bytes : List Byte),
    (i ≤ 18 → bytes.length ≠ (if i ≤ 16 then 1 else 2) →
      s.registerStore i bytes = some (0, s) ∧
      (s.phase = .halted → Returns (.registerStore i bytes) s s (.count 0))) ∧
    (18 < i → s.phase = .halted →
      harnessCall (.registerGet i) s = .refused (.invalidRegisterIndex i) ∧
      harnessCall (.registerStore i bytes) s = .refused (.invalidRegisterIndex i))

/-- 80_host R312, R316: `register_get` returns the register's bytes, `sp` and `pc` low byte first, `memory_read` the bytes from
its address on, ascending and wrapping; both change nothing of the core. -/
def Obligations.HarnessReadsReturnTheBytes : Prop :=
  ∀ s : State, s.phase = .halted →
    let returns (c : Command) (value : List Byte) : Prop := Returns c s s (.bytes value)
    (∀ i : Reg, returns (.registerGet i.toNat) [s.getReg i]) ∧
    returns (.registerGet 16) [s.sr] ∧
    (∃ lo hi : Byte, returns (.registerGet 17) [lo, hi] ∧ s.sp.toNat = 256 * hi.toNat + lo.toNat) ∧
    (∃ lo hi : Byte, returns (.registerGet 18) [lo, hi] ∧ s.pc.toNat = 256 * hi.toNat + lo.toNat) ∧
    (∀ addr n : Nat, ∃ value : List Byte, returns (.memoryRead addr n) value ∧ value.length = n ∧
      ∀ j, j < n → value[j]? = some (s.byteAt (BitVec.ofNat 16 (addr + j))))

/-- 80_host R315, R316: a bulk write of bytes, no more than memory holds, is read back by a bulk read at the same address, at
every alignment and across the wrap; every other byte is as before, and exactly the slots of the written bytes are emptied. -/
def Obligations.BulkWritesReadBack : Prop :=
  ∀ (s : State) (base : Nat) (bytes : List Byte), s.phase = .halted → bytes.length ≤ 65536 →
    ∃ t, harnessCall (.memoryWrite base bytes) s = .next t ∧ harnessCall (.load base bytes) s = .next t ∧
      t.bulkRead base bytes.length = bytes ∧
      SameMemoryBut s t ((List.range bytes.length).map fun j => mask (base + j)) ∧
      SlotsEmptied s t ((List.range bytes.length).map fun j => slotOf (mask (base + j))) ∧
      SameRegs s t ∧ t.sr = s.sr ∧ t.sp = s.sp ∧ t.pc = s.pc ∧ SameControl s t ∧ t.env = s.env

/-- 40_pipeline R121, 80_host R317, 60_exceptions R253: entering `run` clears the halt record, sets the phase and the mode and
changes nothing else; it is refused where no image is loaded. -/
def Obligations.RunEntryResumes : Prop :=
  ∀ (s : State) (m : RunMode), s.phase = .halted →
    (s.loaded = true → harnessCall (.run m) s =
      .next { s with halt := none, phase := .fetching, env := { s.env with mode := m } }) ∧
    (s.loaded = false → harnessCall (.run m) s = .refused .runBeforeLoad)

/-- 70_reset R280, 10_state R39, 80_host R317: the call `reset` of a HALTED core sets every field of the context record to its
reset value, after which `run` is refused until an image is loaded. That it and `reset_with_image` keep the environment, and
which number `POLL_INTERVAL` is, is the model's own (logs 2, 15). -/
def Obligations.ResetCallCreatesTheContext : Prop :=
  ∀ s : State, s.phase = .halted →
    (∃ t, harnessCall .reset s = .next t ∧
      (∀ i, t.getReg i = 0#8) ∧ t.sr = 0#8 ∧ t.sp = 0#16 ∧ t.pc = 0#16 ∧ (∀ a, t.byteAt a = 0#8) ∧
      (∀ i, tableFind t.icache i = none) ∧ t.cycles = 0 ∧ t.phase = .halted ∧ t.halt = none ∧
      t.pollCount = s.env.pollInterval ∧ t.stopRequest = false ∧ t.loaded = false ∧ t.env = s.env ∧
      ∀ m, harnessCall (.run m) t = .refused .runBeforeLoad) ∧
    ∀ (segments : List (Nat × List Byte)) (entry : Nat),
      ∃ t, harnessCall (.resetWithImage segments entry 0) s = .next t ∧ t.env = s.env

/-- 70_reset R281: `reset_with_image` leaves every register and flag 0, `pc` the masked entry address, the bytes of the segments
in memory with later segments over earlier ones and 0 elsewhere, and the image loaded; a machine type other than 0 is
refused. -/
def Obligations.ResetWithImageLoadsTheSegments : Prop :=
  ∀ (s : State) (segments : List (Nat × List Byte)) (entry machineType : Nat), s.phase = .halted →
    (machineType ≠ 0 →
      harnessCall (.resetWithImage segments entry machineType) s = .refused (.unknownMachineType machineType)) ∧
    ∃ t, harnessCall (.resetWithImage segments entry 0) s = .next t ∧
      t.pc.toNat = entry % 65536 ∧ t.loaded = true ∧ (∀ i, t.getReg i = 0#8) ∧ t.sr = 0#8 ∧ t.sp = 0#16 ∧
      t.cycles = 0 ∧ t.phase = .halted ∧ t.halt = none ∧ t.pollCount = s.env.pollInterval ∧ t.stopRequest = false ∧
      (∀ i, tableFind t.icache i = none) ∧
      (∀ a, (∀ seg ∈ segments, ∀ j, j < seg.2.length → mask (seg.1 + j) ≠ a) → t.byteAt a = 0#8) ∧
      (∀ (before after : List (Nat × List Byte)) (seg : Nat × List Byte), segments = before ++ seg :: after →
        ∀ j, j < seg.2.length → (∀ i, i < seg.2.length → j < i → mask (seg.1 + i) ≠ mask (seg.1 + j)) →
        (∀ later ∈ after, ∀ i, i < later.2.length → mask (later.1 + i) ≠ mask (seg.1 + j)) →
        seg.2[j]? = some (t.byteAt (mask (seg.1 + j))))

/-- 80_host R310, 93_implementation_defined U4, R319: a harness call while a run executes is refused; `stop_reason` returns the
halt record and clears nothing; a halted core with no call to come stays as it is (log 8). -/
def Obligations.HarnessActsOnlyWhileHalted : Prop :=
  (∀ (s : State) (c : Command), s.phase ≠ .halted → harnessCall c s = .refused .callDuringRun) ∧
  (∀ s : State, s.phase = .halted →
    Returns .stopReason s s (.reason s.halt)) ∧
  (∀ s : State, s.phase = .halted → s.env.commands = [] → step s = .next s) ∧
  (∀ (s : State) (c : Command) (rest : List Command), s.phase = .halted → s.env.commands = c :: rest →
    step s = harnessCall c { s with env := { s.env with commands := rest } })

/-- Logs 1, 9: an instruction placed by `withFetchWord` at an even `pc` is the one the very next step runs. `p` is the state
with it placed: its bytes at `pc`, low bits first, and nothing else changed but what the fetch needs; `f` is `p` after its
boundary, fetched (some cache `c`) and counted. -/
def Obligations.PlacedInstructionRunsNext : Prop :=
  ∀ (s : State) (nbits w : Nat) (i : Instr), s.pc.toNat % 2 = 0 → decodeTableWord nbits w = some i →
    let p : State := s.withFetchWord nbits w
    (∀ j, j < 4 → (p.byteAt (s.pc + BitVec.ofNat 16 j)).toNat = w % 2 ^ nbits / 256 ^ j % 256) ∧
    SameMemoryBut s p [s.pc, s.pc + 1#16, s.pc + 2#16, s.pc + 3#16] ∧
    SlotsEmptied s p [slotOf s.pc, slotOf (s.pc + 2#16)] ∧
    SameRegs s p ∧ p.sr = s.sr ∧ p.sp = s.sp ∧ p.pc = s.pc ∧ p.cycles = s.cycles ∧ p.phase = .fetching ∧ p.halt = none ∧
    p.loaded = true ∧ p.stopRequest = false ∧ p.pollCount = (if s.pollCount ≤ 1 then 2 else s.pollCount) ∧
    p.env = { s.env with ticks := [] } ∧ p.atBoundary.stopRequest = false ∧
    ∃ c : DecodeCache,
      let f : State := { p.atBoundary with icache := c, cycles := s.cycles + 1, phase := .dispatching }
      (CacheCoherent s → CacheCoherent f) ∧
      (∀ t, exec i f = .next t → step p = .next (t.retire s.pc i)) ∧
      (∀ r, exec i f = .refused r → step p = .refused r)
end

