-- ==== Sys2Proof/Laws/Decode.lean ====
section
/-!
SUPPORT. The fields of a word built in each format of 30_encoding R82: what the decoder reads where the encoder wrote.
-/

namespace Sys2Proof.Laws

open Sys2Proof

theorem toNat_append' {n m : Nat} (x : BitVec n) (y : BitVec m) : (x ++ y).toNat = x.toNat * 2 ^ m + y.toNat := by
  rw [BitVec.toNat_append, ← Nat.shiftLeft_add_eq_or_of_lt y.isLt, Nat.shiftLeft_eq]

theorem toNat_formatZ (k : BitVec 8) : (formatZ k).toNat = k.toNat :=
  (toNat_append' _ _).trans (by simp)

theorem toNat_formatT (k : BitVec 8) : (formatT k).toNat = 0x100 + k.toNat :=
  (toNat_append' _ _).trans (by simp)

theorem toNat_formatF (c : BitVec 4) (b : BitNo) : (formatF c b).toNat = 0x100 * c.toNat + b.toNat :=
  (toNat_append' _ _).trans (by simp only [toNat_append', BitVec.toNat_ofNat]; omega)

theorem toNat_formatL (c : BitVec 4) : (formatL c).toNat = 0x100 * c.toNat :=
  (toNat_append' _ _).trans (by simp only [toNat_append', BitVec.toNat_ofNat]; omega)

theorem toNat_formatU (c f : BitVec 4) (r : Reg) : (formatU c f r).toNat = 0x100 * c.toNat + 0x10 * f.toNat + r.toNat :=
  (toNat_append' _ _).trans (by simp only [toNat_append', BitVec.toNat_ofNat]; omega)

theorem toNat_formatB (c : BitVec 4) (b : BitNo) (r : Reg) :
    (formatB c b r).toNat = 0x100 * c.toNat + 0x10 * b.toNat + r.toNat :=
  (toNat_append' _ _).trans (by simp only [toNat_append', BitVec.toNat_ofNat]; omega)

theorem toNat_formatR (f : BitVec 4) (d r : Reg) :
    (formatR f d r).toNat = 0x1000 + 0x100 * f.toNat + 0x10 * d.toNat + r.toNat :=
  (toNat_append' _ _).trans (by simp only [toNat_append', BitVec.toNat_ofNat]; omega)

theorem toNat_formatI (c : BitVec 4) (d : Reg) (k : Byte) :
    (formatI c d k).toNat = 0x1000 * c.toNat + 0x100 * d.toNat + k.toNat :=
  (toNat_append' _ _).trans (by simp only [toNat_append']; omega)

theorem toNat_formatJ (k : BitVec 12) : (formatJ k).toNat = 0xC000 + k.toNat :=
  (toNat_append' _ _).trans (by simp)

theorem toNat_formatC (t : BitVec 1) (b : BitNo) (k : Byte) :
    (formatC t b k).toNat = 0xE000 + 0x800 * t.toNat + 0x100 * b.toNat + k.toNat :=
  (toNat_append' _ _).trans (by simp only [toNat_append', BitVec.toNat_ofNat]; omega)

/-- A field of a word, as a number. -/
theorem toNat_field (w : Word16) (at' n : Nat) : (w.extractLsb' at' n).toNat = w.toNat / 2 ^ at' % 2 ^ n := by
  rw [BitVec.extractLsb'_toNat, Nat.shiftRight_eq_div_pow]

/-! ## A format under a mask made the same way -/

theorem mask_formatT (k mk : BitVec 8) : formatT k &&& (0xFF#8 ++ mk) = formatT (k &&& mk) := by
  unfold formatT; exact BitVec.and_append

theorem mask_formatF (c mc : BitVec 4) (b mb : BitNo) :
    formatF c b &&& (0xF#4 ++ mc ++ 0x1F#5 ++ mb) = formatF (c &&& mc) (b &&& mb) := by
  unfold formatF; rw [BitVec.and_append, BitVec.and_append, BitVec.and_append]; rfl

theorem mask_formatU (c f mc mf : BitVec 4) (r mr : Reg) :
    formatU c f r &&& (0xF#4 ++ mc ++ mf ++ mr) = formatU (c &&& mc) (f &&& mf) (r &&& mr) := by
  unfold formatU; rw [BitVec.and_append, BitVec.and_append, BitVec.and_append]; rfl

theorem mask_formatB (c mc : BitVec 4) (b mb : BitNo) (r mr : Reg) :
    formatB c b r &&& (0xF#4 ++ mc ++ 1#1 ++ mb ++ mr) = formatB (c &&& mc) (b &&& mb) (r &&& mr) := by
  unfold formatB; rw [BitVec.and_append, BitVec.and_append, BitVec.and_append, BitVec.and_append]; rfl

theorem mask_formatR (f mf : BitVec 4) (d md r mr : Reg) :
    formatR f d r &&& (0xF#4 ++ mf ++ md ++ mr) = formatR (f &&& mf) (d &&& md) (r &&& mr) := by
  unfold formatR; rw [BitVec.and_append, BitVec.and_append, BitVec.and_append]; rfl

theorem mask_formatI (c mc : BitVec 4) (d md : Reg) (k mk : Byte) :
    formatI c d k &&& (mc ++ md ++ mk) = formatI (c &&& mc) (d &&& md) (k &&& mk) := by
  unfold formatI; rw [BitVec.and_append, BitVec.and_append]

theorem mask_formatJ (k mk : BitVec 12) : formatJ k &&& (0xF#4 ++ mk) = formatJ (k &&& mk) := by
  unfold formatJ; exact BitVec.and_append

theorem mask_formatC (t mt : BitVec 1) (b mb : BitNo) (k mk : Byte) :
    formatC t b k &&& (0xF#4 ++ mt ++ mb ++ mk) = formatC (t &&& mt) (b &&& mb) (k &&& mk) := by
  unfold formatC; rw [BitVec.and_append, BitVec.and_append, BitVec.and_append]; rfl

/-- The flag field of format F. -/
theorem flagField_formatF (c : BitVec 4) (b : BitNo) : (formatF c b).extractLsb' 0 3 = b := by
  apply BitVec.eq_of_toNat_eq
  have := b.isLt
  rw [toNat_field, toNat_formatF]
  omega

/-- The flag field of format C. -/
theorem flagField_formatC (t : BitVec 1) (b : BitNo) (k : Byte) : (formatC t b k).extractLsb' 8 3 = b := by
  apply BitVec.eq_of_toNat_eq
  have := b.isLt
  have := k.isLt
  have := t.isLt
  rw [toNat_field, toNat_formatC]
  omega

/-- An even register number has bit 0 clear. -/
theorem pair_and_one (r : Reg) (h : pairNumberOk r = true) : r &&& 1#4 = 0#4 := by revert r; decide

end Sys2Proof.Laws
end

