-- ==== Sys2Proof/Laws/Flags.lean ====
section
/-!
SUPPORT. Laws of the flags: reading a flag that was put, and each flag after each evaluator.
-/

namespace Sys2Proof.Laws

open Sys2Proof.Machine

/-- The positions of `SR_LAYOUT` in profile P0 (00_scope R6, 10_state R25). -/
theorem flag_positions :
    flagZ = 0#3 ∧ flagC = 1#3 ∧ flagN = 2#3 ∧ flagV = 3#3 ∧ flagS = 4#3 ∧ flagH = 5#3 ∧ flagI = 6#3 ∧
    srReserved = 7#3 := by decide

/-- Putting a flag changes that flag alone. -/
theorem getFlag_putFlag (sr : Byte) (b c : BitNo) (v : Bool) :
    getFlag (putFlag sr b v) c = if c = b then v else getFlag sr c := by
  have hmask : (1#8 <<< b.toNat).getLsbD c.toNat = decide (c = b) := by revert b c; decide
  have hc : c.toNat < 8 := c.isLt
  unfold getFlag putFlag
  cases v
  · rw [if_neg Bool.false_ne_true, BitVec.getLsbD_and, BitVec.getLsbD_not, hmask]
    by_cases h : c = b <;> simp [h, hc]
  · rw [if_pos rfl, BitVec.getLsbD_or, hmask]
    by_cases h : c = b <;> simp [h]

/-- The flags that `putZNVS` writes; the others stay. -/
theorem getFlag_putZNVS (sr r : Byte) (v : Bool) (b : BitNo) :
    getFlag (putZNVS sr r v) b =
      if b = flagS then r.getLsbD 7 ^^ v
      else if b = flagV then v
      else if b = flagN then r.getLsbD 7
      else if b = flagZ then r == 0#8
      else getFlag sr b := by
  simp only [putZNVS, getFlag_putFlag]

/-- Two status registers with the same flags, bit 7 included, are equal. -/
theorem sr_ext {a b : Byte} (h : ∀ i : BitNo, getFlag a i = getFlag b i) : a = b := by
  apply BitVec.eq_of_getLsbD_eq
  intro i hi
  simpa [getFlag, Nat.mod_eq_of_lt hi] using h (BitVec.ofNat 3 i)

/-- Every flag after `AddEval`; I and bit 7 stay. -/
theorem getFlag_addFlags (a b : Byte) (cin : Bool) (sr : Byte) (f : BitNo) :
    getFlag (addFlags a b cin sr) f =
      if f = flagS then (addResult a b cin).getLsbD 7 ^^ addOverflow a b (addResult a b cin)
      else if f = flagV then addOverflow a b (addResult a b cin)
      else if f = flagN then (addResult a b cin).getLsbD 7
      else if f = flagZ then addResult a b cin == 0#8
      else if f = flagC then carryOut a b (addResult a b cin) 7
      else if f = flagH then carryOut a b (addResult a b cin) 3
      else getFlag sr f := by
  simp only [addFlags, getFlag_putZNVS, getFlag_putFlag]

/-- Every flag after `SubEval`; I and bit 7 stay. -/
theorem getFlag_subFlags (a b : Byte) (bin : Bool) (sr : Byte) (f : BitNo) :
    getFlag (subFlags a b bin sr) f =
      if f = flagS then (subResult a b bin).getLsbD 7 ^^ subOverflow a b (subResult a b bin)
      else if f = flagV then subOverflow a b (subResult a b bin)
      else if f = flagN then (subResult a b bin).getLsbD 7
      else if f = flagZ then subResult a b bin == 0#8
      else if f = flagC then borrowOut a b (subResult a b bin) 7
      else if f = flagH then borrowOut a b (subResult a b bin) 3
      else getFlag sr f := by
  simp only [subFlags, getFlag_putZNVS, getFlag_putFlag]

/-- Every flag after `LogicEval`; C, H, I and bit 7 stay. -/
theorem getFlag_logicFlags (r sr : Byte) (f : BitNo) :
    getFlag (logicFlags r sr) f =
      if f = flagS then r.getLsbD 7
      else if f = flagV then false
      else if f = flagN then r.getLsbD 7
      else if f = flagZ then r == 0#8
      else getFlag sr f := by
  simp only [logicFlags, getFlag_putZNVS, Bool.xor_false]

/-- Every flag after `ShiftEval`; H, I and bit 7 stay, and S is the new C. -/
theorem getFlag_shiftFlags (op : ShiftOp) (a sr : Byte) (f : BitNo) :
    getFlag (shiftFlags op a sr) f =
      if f = flagS then shiftedOut op a
      else if f = flagV then (shiftResult op a (getFlag sr flagC)).getLsbD 7 ^^ shiftedOut op a
      else if f = flagN then (shiftResult op a (getFlag sr flagC)).getLsbD 7
      else if f = flagZ then shiftResult op a (getFlag sr flagC) == 0#8
      else if f = flagC then shiftedOut op a
      else getFlag sr f := by
  simp only [shiftFlags, getFlag_putZNVS, getFlag_putFlag, ← Bool.xor_assoc, Bool.xor_self, Bool.false_xor]

end Sys2Proof.Laws
end

