-- ==== Sys2Proof/Laws/Memory.lean ====
section
/-!
SUPPORT. Laws of the sparse tables and of the memory image: read after write, and that every operation keeps the canonical
form.
-/

namespace Sys2Proof.Laws

open Sys2Proof.Machine

variable {α : Type}

/-! ## Reading a changed table -/

theorem tableFind_insert (t : List (Nat × α)) (a b : Nat) (v : α) :
    tableFind (tableInsert t a v) b = if b = a then some v else tableFind t b := by
  induction t with
  | nil => simp [tableInsert, tableFind]
  | cons c t ih =>
    obtain ⟨k, w⟩ := c
    simp only [tableInsert]
    split
    · simp [tableFind]
    · split
      · subst_vars; by_cases h : b = k <;> simp [tableFind, h]
      · by_cases h : b = k <;> simp_all [tableFind, eq_comm]

theorem tableFind_erase (t : List (Nat × α)) (a b : Nat) :
    tableFind (tableErase t a) b = if b = a then none else tableFind t b := by
  induction t with
  | nil => simp [tableErase, tableFind]
  | cons c t ih =>
    obtain ⟨k, w⟩ := c
    by_cases hk : a = k <;> by_cases hb : b = k <;> simp_all [tableErase, tableFind, eq_comm]

theorem tableFind_mem {t : List (Nat × α)} {a : Nat} {v : α} (h : tableFind t a = some v) : (a, v) ∈ t := by
  induction t with
  | nil => simp [tableFind] at h
  | cons c t ih =>
    obtain ⟨k, w⟩ := c
    by_cases hk : a = k
    · simp_all [tableFind]
    · exact List.mem_cons_of_mem _ (ih (by simpa [tableFind, hk] using h))

/-! ## Membership in a changed table -/

theorem mem_tableInsert {t : List (Nat × α)} {a : Nat} {v : α} {p : Nat × α} (h : p ∈ tableInsert t a v) :
    p = (a, v) ∨ p ∈ t := by
  induction t with
  | nil => simpa [tableInsert] using h
  | cons c t ih =>
    simp only [tableInsert] at h
    split at h
    · simpa using h
    · split at h <;> simp only [List.mem_cons] at h ⊢
      · tauto
      · rcases h with h | h
        · exact .inr (.inl h)
        · rcases ih h with h | h <;> tauto

theorem mem_tableErase {t : List (Nat × α)} {a : Nat} {p : Nat × α} (h : p ∈ tableErase t a) : p ∈ t ∧ p.1 ≠ a := by
  induction t with
  | nil => simp [tableErase] at h
  | cons c t ih =>
    simp only [tableErase] at h
    split at h
    · exact ⟨List.mem_cons_of_mem _ (ih h).1, (ih h).2⟩
    · rcases List.mem_cons.1 h with rfl | h
      · exact ⟨List.mem_cons_self, fun e => by simp_all⟩
      · exact ⟨List.mem_cons_of_mem _ (ih h).1, (ih h).2⟩

/-! ## The canonical form is kept -/

theorem tableSorted_insert {t : List (Nat × α)} (h : TableSorted t) (a : Nat) (v : α) : TableSorted (tableInsert t a v) := by
  induction t with
  | nil => simp [tableInsert]
  | cons c t ih =>
    obtain ⟨k, w⟩ := c
    obtain ⟨hk, ht⟩ := List.pairwise_cons.1 h
    simp only [tableInsert]
    split
    · refine List.pairwise_cons.2 ⟨fun p hp => ?_, h⟩
      rcases List.mem_cons.1 hp with rfl | hp
      · assumption
      · have := hk p hp; simp only at this ⊢; omega
    · split
      · subst_vars; exact List.pairwise_cons.2 ⟨hk, ht⟩
      · refine List.pairwise_cons.2 ⟨fun p hp => ?_, ih ht⟩
        rcases mem_tableInsert hp with rfl | hp
        · simp only; omega
        · exact hk p hp

theorem tableSorted_erase {t : List (Nat × α)} (h : TableSorted t) (a : Nat) : TableSorted (tableErase t a) := by
  induction t with
  | nil => simp [tableErase]
  | cons c t ih =>
    obtain ⟨hk, ht⟩ := List.pairwise_cons.1 h
    simp only [tableErase]
    split
    · exact ih ht
    · exact List.pairwise_cons.2 ⟨fun p hp => hk p (mem_tableErase hp).1, ih ht⟩

/-! ## The memory image -/

/-- What a write does to every byte. -/
theorem memory_read_write (m : Memory) (a b : Addr) (v : Byte) :
    (m.write a v).read b = if b = a then v else m.read b := by
  have hab : b.toNat = a.toNat ↔ b = a := ⟨BitVec.eq_of_toNat_eq, congrArg _⟩
  by_cases hv : v = Config.p0.memInit
  · by_cases h : b = a <;> simp_all [Memory.write, Memory.read, tableFind_erase]
  · by_cases h : b = a <;> simp_all [Memory.write, Memory.read, tableFind_insert]

/-- A write keeps the canonical form. -/
theorem memory_write_wf {m : Memory} (h : m.wf) (a : Addr) (v : Byte) : (m.write a v).wf := by
  obtain ⟨hs, hc⟩ := h
  unfold Memory.write
  split
  · exact ⟨tableSorted_erase hs _, fun c hm => hc c (mem_tableErase hm).1⟩
  · refine ⟨tableSorted_insert hs _ _, fun c hm => ?_⟩
    rcases mem_tableInsert hm with rfl | hm
    · exact ⟨a.isLt, by assumption⟩
    · exact hc c hm

end Sys2Proof.Laws
end

