-- ==== Sys2Proof/Laws/State.lean ====
section
/-!
SUPPORT. Each field of the state after each named update, so that no later proof unfolds a record update.
-/

namespace Sys2Proof.Laws

open Sys2Proof.Machine

variable (s : State)

/-! ## What profile P0's parameters make of the operations that read them -/

/-- `PC_ENCODING` is the identity (10_state R24). -/
@[simp] theorem pcAddress_eq (a : Addr) : pcAddress a = a := rfl
@[simp] theorem pcStored_eq (a : Addr) : pcStored a = a := rfl
@[simp] theorem pcGet_eq : s.pcGet = s.pc := rfl

/-- `ADDR_MASK = MEM_SIZE - 1` (00_scope R6). -/
theorem addrMask_eq : Config.p0.addrMask = Config.p0.memSize - 1 := rfl

/-- A masked address is the address modulo 2^16 (20_memory R51). -/
theorem mask_eq (a : Nat) : mask a = BitVec.ofNat 16 a := by
  unfold mask
  rw [show Config.p0.addrMask = 2 ^ 16 - 1 from rfl, Nat.and_two_pow_sub_one_eq_mod]
  exact BitVec.eq_of_toNat_eq (by simp)

/-- `OPCODE_MAP` is the decoder of 30_encoding. -/
theorem opcodeMap_eq (w : Word16) : Config.p0.opcodeMap w = decode w := rfl

/-- The numbers of `REGNUM` (80_host R312). -/
theorem regNum_eq :
    Config.p0.regNum.general = 16 ∧ Config.p0.regNum.sr = 16 ∧ Config.p0.regNum.sp = 17 ∧ Config.p0.regNum.pc = 18 :=
  ⟨rfl, rfl, rfl, rfl⟩

/-! ## `setReg` -/

@[simp] theorem setReg_regs (i : Reg) (v : Byte) : (s.setReg i v).regs = s.regs.set i.toNat v i.isLt := rfl
@[simp] theorem setReg_sr (i : Reg) (v : Byte) : (s.setReg i v).sr = s.sr := rfl
@[simp] theorem setReg_sp (i : Reg) (v : Byte) : (s.setReg i v).sp = s.sp := rfl
@[simp] theorem setReg_pc (i : Reg) (v : Byte) : (s.setReg i v).pc = s.pc := rfl
@[simp] theorem setReg_mem (i : Reg) (v : Byte) : (s.setReg i v).mem = s.mem := rfl
@[simp] theorem setReg_icache (i : Reg) (v : Byte) : (s.setReg i v).icache = s.icache := rfl
@[simp] theorem setReg_cycles (i : Reg) (v : Byte) : (s.setReg i v).cycles = s.cycles := rfl
@[simp] theorem setReg_phase (i : Reg) (v : Byte) : (s.setReg i v).phase = s.phase := rfl
@[simp] theorem setReg_halt (i : Reg) (v : Byte) : (s.setReg i v).halt = s.halt := rfl
@[simp] theorem setReg_pollCount (i : Reg) (v : Byte) : (s.setReg i v).pollCount = s.pollCount := rfl
@[simp] theorem setReg_stopRequest (i : Reg) (v : Byte) : (s.setReg i v).stopRequest = s.stopRequest := rfl
@[simp] theorem setReg_loaded (i : Reg) (v : Byte) : (s.setReg i v).loaded = s.loaded := rfl
@[simp] theorem setReg_env (i : Reg) (v : Byte) : (s.setReg i v).env = s.env := rfl
@[simp] theorem setReg_byteAt (i : Reg) (v : Byte) (k : Addr) : (s.setReg i v).byteAt k = s.byteAt k := rfl

/-! ## `setPair` -/

@[simp] theorem setPair_sr (i : Reg) (v : Word16) : (s.setPair i v).sr = s.sr := rfl
@[simp] theorem setPair_sp (i : Reg) (v : Word16) : (s.setPair i v).sp = s.sp := rfl
@[simp] theorem setPair_pc (i : Reg) (v : Word16) : (s.setPair i v).pc = s.pc := rfl
@[simp] theorem setPair_mem (i : Reg) (v : Word16) : (s.setPair i v).mem = s.mem := rfl
@[simp] theorem setPair_icache (i : Reg) (v : Word16) : (s.setPair i v).icache = s.icache := rfl
@[simp] theorem setPair_cycles (i : Reg) (v : Word16) : (s.setPair i v).cycles = s.cycles := rfl
@[simp] theorem setPair_phase (i : Reg) (v : Word16) : (s.setPair i v).phase = s.phase := rfl
@[simp] theorem setPair_halt (i : Reg) (v : Word16) : (s.setPair i v).halt = s.halt := rfl
@[simp] theorem setPair_pollCount (i : Reg) (v : Word16) : (s.setPair i v).pollCount = s.pollCount := rfl
@[simp] theorem setPair_stopRequest (i : Reg) (v : Word16) : (s.setPair i v).stopRequest = s.stopRequest := rfl
@[simp] theorem setPair_loaded (i : Reg) (v : Word16) : (s.setPair i v).loaded = s.loaded := rfl
@[simp] theorem setPair_env (i : Reg) (v : Word16) : (s.setPair i v).env = s.env := rfl
@[simp] theorem setPair_byteAt (i : Reg) (v : Word16) (k : Addr) : (s.setPair i v).byteAt k = s.byteAt k := rfl

/-! ## `setSr` -/

@[simp] theorem setSr_regs (v : Byte) : (s.setSr v).regs = s.regs := rfl
@[simp] theorem setSr_sr (v : Byte) : (s.setSr v).sr = v := rfl
@[simp] theorem setSr_sp (v : Byte) : (s.setSr v).sp = s.sp := rfl
@[simp] theorem setSr_pc (v : Byte) : (s.setSr v).pc = s.pc := rfl
@[simp] theorem setSr_mem (v : Byte) : (s.setSr v).mem = s.mem := rfl
@[simp] theorem setSr_icache (v : Byte) : (s.setSr v).icache = s.icache := rfl
@[simp] theorem setSr_cycles (v : Byte) : (s.setSr v).cycles = s.cycles := rfl
@[simp] theorem setSr_phase (v : Byte) : (s.setSr v).phase = s.phase := rfl
@[simp] theorem setSr_halt (v : Byte) : (s.setSr v).halt = s.halt := rfl
@[simp] theorem setSr_pollCount (v : Byte) : (s.setSr v).pollCount = s.pollCount := rfl
@[simp] theorem setSr_stopRequest (v : Byte) : (s.setSr v).stopRequest = s.stopRequest := rfl
@[simp] theorem setSr_loaded (v : Byte) : (s.setSr v).loaded = s.loaded := rfl
@[simp] theorem setSr_env (v : Byte) : (s.setSr v).env = s.env := rfl
@[simp] theorem setSr_getReg (v : Byte) (k : Reg) : (s.setSr v).getReg k = s.getReg k := rfl
@[simp] theorem setSr_getPair (v : Byte) (k : Reg) : (s.setSr v).getPair k = s.getPair k := rfl
@[simp] theorem setSr_byteAt (v : Byte) (k : Addr) : (s.setSr v).byteAt k = s.byteAt k := rfl

/-! ## `setSp` -/

@[simp] theorem setSp_regs (v : Addr) : (s.setSp v).regs = s.regs := rfl
@[simp] theorem setSp_sr (v : Addr) : (s.setSp v).sr = s.sr := rfl
@[simp] theorem setSp_sp (v : Addr) : (s.setSp v).sp = v := rfl
@[simp] theorem setSp_pc (v : Addr) : (s.setSp v).pc = s.pc := rfl
@[simp] theorem setSp_mem (v : Addr) : (s.setSp v).mem = s.mem := rfl
@[simp] theorem setSp_icache (v : Addr) : (s.setSp v).icache = s.icache := rfl
@[simp] theorem setSp_cycles (v : Addr) : (s.setSp v).cycles = s.cycles := rfl
@[simp] theorem setSp_phase (v : Addr) : (s.setSp v).phase = s.phase := rfl
@[simp] theorem setSp_halt (v : Addr) : (s.setSp v).halt = s.halt := rfl
@[simp] theorem setSp_pollCount (v : Addr) : (s.setSp v).pollCount = s.pollCount := rfl
@[simp] theorem setSp_stopRequest (v : Addr) : (s.setSp v).stopRequest = s.stopRequest := rfl
@[simp] theorem setSp_loaded (v : Addr) : (s.setSp v).loaded = s.loaded := rfl
@[simp] theorem setSp_env (v : Addr) : (s.setSp v).env = s.env := rfl
@[simp] theorem setSp_getReg (v : Addr) (k : Reg) : (s.setSp v).getReg k = s.getReg k := rfl
@[simp] theorem setSp_getPair (v : Addr) (k : Reg) : (s.setSp v).getPair k = s.getPair k := rfl
@[simp] theorem setSp_byteAt (v : Addr) (k : Addr) : (s.setSp v).byteAt k = s.byteAt k := rfl

/-! ## `setPc` -/

@[simp] theorem setPc_regs (v : Addr) : (s.setPc v).regs = s.regs := rfl
@[simp] theorem setPc_sr (v : Addr) : (s.setPc v).sr = s.sr := rfl
@[simp] theorem setPc_sp (v : Addr) : (s.setPc v).sp = s.sp := rfl
@[simp] theorem setPc_pc (v : Addr) : (s.setPc v).pc = v := rfl
@[simp] theorem setPc_mem (v : Addr) : (s.setPc v).mem = s.mem := rfl
@[simp] theorem setPc_icache (v : Addr) : (s.setPc v).icache = s.icache := rfl
@[simp] theorem setPc_cycles (v : Addr) : (s.setPc v).cycles = s.cycles := rfl
@[simp] theorem setPc_phase (v : Addr) : (s.setPc v).phase = s.phase := rfl
@[simp] theorem setPc_halt (v : Addr) : (s.setPc v).halt = s.halt := rfl
@[simp] theorem setPc_pollCount (v : Addr) : (s.setPc v).pollCount = s.pollCount := rfl
@[simp] theorem setPc_stopRequest (v : Addr) : (s.setPc v).stopRequest = s.stopRequest := rfl
@[simp] theorem setPc_loaded (v : Addr) : (s.setPc v).loaded = s.loaded := rfl
@[simp] theorem setPc_env (v : Addr) : (s.setPc v).env = s.env := rfl
@[simp] theorem setPc_getReg (v : Addr) (k : Reg) : (s.setPc v).getReg k = s.getReg k := rfl
@[simp] theorem setPc_getPair (v : Addr) (k : Reg) : (s.setPc v).getPair k = s.getPair k := rfl
@[simp] theorem setPc_byteAt (v : Addr) (k : Addr) : (s.setPc v).byteAt k = s.byteAt k := rfl

/-! ## `advance` -/

@[simp] theorem advance_regs : (s.advance).regs = s.regs := rfl
@[simp] theorem advance_sr : (s.advance).sr = s.sr := rfl
@[simp] theorem advance_sp : (s.advance).sp = s.sp := rfl
@[simp] theorem advance_pc : (s.advance).pc = s.pc + 2#16 := rfl
@[simp] theorem advance_mem : (s.advance).mem = s.mem := rfl
@[simp] theorem advance_icache : (s.advance).icache = s.icache := rfl
@[simp] theorem advance_cycles : (s.advance).cycles = s.cycles := rfl
@[simp] theorem advance_phase : (s.advance).phase = s.phase := rfl
@[simp] theorem advance_halt : (s.advance).halt = s.halt := rfl
@[simp] theorem advance_pollCount : (s.advance).pollCount = s.pollCount := rfl
@[simp] theorem advance_stopRequest : (s.advance).stopRequest = s.stopRequest := rfl
@[simp] theorem advance_loaded : (s.advance).loaded = s.loaded := rfl
@[simp] theorem advance_env : (s.advance).env = s.env := rfl
@[simp] theorem advance_getReg (k : Reg) : (s.advance).getReg k = s.getReg k := rfl
@[simp] theorem advance_getPair (k : Reg) : (s.advance).getPair k = s.getPair k := rfl
@[simp] theorem advance_byteAt (k : Addr) : (s.advance).byteAt k = s.byteAt k := rfl

/-! ## `storeByte` -/

@[simp] theorem storeByte_regs (a : Addr) (v : Byte) : (s.storeByte a v).regs = s.regs := rfl
@[simp] theorem storeByte_sr (a : Addr) (v : Byte) : (s.storeByte a v).sr = s.sr := rfl
@[simp] theorem storeByte_sp (a : Addr) (v : Byte) : (s.storeByte a v).sp = s.sp := rfl
@[simp] theorem storeByte_pc (a : Addr) (v : Byte) : (s.storeByte a v).pc = s.pc := rfl
@[simp] theorem storeByte_mem (a : Addr) (v : Byte) : (s.storeByte a v).mem = s.mem.write a v := rfl
@[simp] theorem storeByte_icache (a : Addr) (v : Byte) : (s.storeByte a v).icache = tableErase s.icache (slotOf a) := rfl
@[simp] theorem storeByte_cycles (a : Addr) (v : Byte) : (s.storeByte a v).cycles = s.cycles := rfl
@[simp] theorem storeByte_phase (a : Addr) (v : Byte) : (s.storeByte a v).phase = s.phase := rfl
@[simp] theorem storeByte_halt (a : Addr) (v : Byte) : (s.storeByte a v).halt = s.halt := rfl
@[simp] theorem storeByte_pollCount (a : Addr) (v : Byte) : (s.storeByte a v).pollCount = s.pollCount := rfl
@[simp] theorem storeByte_stopRequest (a : Addr) (v : Byte) : (s.storeByte a v).stopRequest = s.stopRequest := rfl
@[simp] theorem storeByte_loaded (a : Addr) (v : Byte) : (s.storeByte a v).loaded = s.loaded := rfl
@[simp] theorem storeByte_env (a : Addr) (v : Byte) : (s.storeByte a v).env = s.env := rfl
@[simp] theorem storeByte_getReg (a : Addr) (v : Byte) (k : Reg) : (s.storeByte a v).getReg k = s.getReg k := rfl
@[simp] theorem storeByte_getPair (a : Addr) (v : Byte) (k : Reg) : (s.storeByte a v).getPair k = s.getPair k := rfl

/-! ## `stop` -/

@[simp] theorem stop_regs (c : StopCondition) : (s.stop c).regs = s.regs := rfl
@[simp] theorem stop_sr (c : StopCondition) : (s.stop c).sr = s.sr := rfl
@[simp] theorem stop_sp (c : StopCondition) : (s.stop c).sp = s.sp := rfl
@[simp] theorem stop_pc (c : StopCondition) : (s.stop c).pc = s.pc := rfl
@[simp] theorem stop_mem (c : StopCondition) : (s.stop c).mem = s.mem := rfl
@[simp] theorem stop_icache (c : StopCondition) : (s.stop c).icache = s.icache := rfl
@[simp] theorem stop_cycles (c : StopCondition) : (s.stop c).cycles = s.cycles := rfl
@[simp] theorem stop_phase (c : StopCondition) : (s.stop c).phase = .halted := rfl
@[simp] theorem stop_halt (c : StopCondition) : (s.stop c).halt = some c.record := rfl
@[simp] theorem stop_pollCount (c : StopCondition) : (s.stop c).pollCount = s.pollCount := rfl
@[simp] theorem stop_stopRequest (c : StopCondition) : (s.stop c).stopRequest = s.stopRequest := rfl
@[simp] theorem stop_loaded (c : StopCondition) : (s.stop c).loaded = s.loaded := rfl
@[simp] theorem stop_env (c : StopCondition) : (s.stop c).env = s.env := rfl
@[simp] theorem stop_getReg (c : StopCondition) (k : Reg) : (s.stop c).getReg k = s.getReg k := rfl
@[simp] theorem stop_getPair (c : StopCondition) (k : Reg) : (s.stop c).getPair k = s.getPair k := rfl
@[simp] theorem stop_byteAt (c : StopCondition) (k : Addr) : (s.stop c).byteAt k = s.byteAt k := rfl

/-! ## `runEntry` -/

@[simp] theorem runEntry_regs (m : RunMode) : (s.runEntry m).regs = s.regs := rfl
@[simp] theorem runEntry_sr (m : RunMode) : (s.runEntry m).sr = s.sr := rfl
@[simp] theorem runEntry_sp (m : RunMode) : (s.runEntry m).sp = s.sp := rfl
@[simp] theorem runEntry_pc (m : RunMode) : (s.runEntry m).pc = s.pc := rfl
@[simp] theorem runEntry_mem (m : RunMode) : (s.runEntry m).mem = s.mem := rfl
@[simp] theorem runEntry_icache (m : RunMode) : (s.runEntry m).icache = s.icache := rfl
@[simp] theorem runEntry_cycles (m : RunMode) : (s.runEntry m).cycles = s.cycles := rfl
@[simp] theorem runEntry_phase (m : RunMode) : (s.runEntry m).phase = .fetching := rfl
@[simp] theorem runEntry_halt (m : RunMode) : (s.runEntry m).halt = none := rfl
@[simp] theorem runEntry_pollCount (m : RunMode) : (s.runEntry m).pollCount = s.pollCount := rfl
@[simp] theorem runEntry_stopRequest (m : RunMode) : (s.runEntry m).stopRequest = s.stopRequest := rfl
@[simp] theorem runEntry_loaded (m : RunMode) : (s.runEntry m).loaded = s.loaded := rfl
@[simp] theorem runEntry_env (m : RunMode) : (s.runEntry m).env = { s.env with mode := m } := rfl
@[simp] theorem runEntry_getReg (m : RunMode) (k : Reg) : (s.runEntry m).getReg k = s.getReg k := rfl
@[simp] theorem runEntry_getPair (m : RunMode) (k : Reg) : (s.runEntry m).getPair k = s.getPair k := rfl
@[simp] theorem runEntry_byteAt (m : RunMode) (k : Addr) : (s.runEntry m).byteAt k = s.byteAt k := rfl

/-! ## `callWrite` -/

@[simp] theorem callWrite_regs (fd : Byte) (data : List Byte) : (s.callWrite fd data).regs = s.regs := rfl
@[simp] theorem callWrite_sr (fd : Byte) (data : List Byte) : (s.callWrite fd data).sr = s.sr := rfl
@[simp] theorem callWrite_sp (fd : Byte) (data : List Byte) : (s.callWrite fd data).sp = s.sp := rfl
@[simp] theorem callWrite_pc (fd : Byte) (data : List Byte) : (s.callWrite fd data).pc = s.pc := rfl
@[simp] theorem callWrite_mem (fd : Byte) (data : List Byte) : (s.callWrite fd data).mem = s.mem := rfl
@[simp] theorem callWrite_icache (fd : Byte) (data : List Byte) : (s.callWrite fd data).icache = s.icache := rfl
@[simp] theorem callWrite_cycles (fd : Byte) (data : List Byte) : (s.callWrite fd data).cycles = s.cycles := rfl
@[simp] theorem callWrite_phase (fd : Byte) (data : List Byte) : (s.callWrite fd data).phase = s.phase := rfl
@[simp] theorem callWrite_halt (fd : Byte) (data : List Byte) : (s.callWrite fd data).halt = s.halt := rfl
@[simp] theorem callWrite_pollCount (fd : Byte) (data : List Byte) : (s.callWrite fd data).pollCount = s.pollCount := rfl
@[simp] theorem callWrite_stopRequest (fd : Byte) (data : List Byte) : (s.callWrite fd data).stopRequest = s.stopRequest := rfl
@[simp] theorem callWrite_loaded (fd : Byte) (data : List Byte) : (s.callWrite fd data).loaded = s.loaded := rfl
@[simp] theorem callWrite_env (fd : Byte) (data : List Byte) : (s.callWrite fd data).env = { s.env with writeAnswers := s.env.writeAnswers.tail, hostCalls := .write fd data :: s.env.hostCalls } := rfl
@[simp] theorem callWrite_getReg (fd : Byte) (data : List Byte) (k : Reg) : (s.callWrite fd data).getReg k = s.getReg k := rfl
@[simp] theorem callWrite_getPair (fd : Byte) (data : List Byte) (k : Reg) : (s.callWrite fd data).getPair k = s.getPair k := rfl
@[simp] theorem callWrite_byteAt (fd : Byte) (data : List Byte) (k : Addr) : (s.callWrite fd data).byteAt k = s.byteAt k := rfl

/-! ## `callRead` -/

@[simp] theorem callRead_regs (fd : Byte) (len : Nat) : (s.callRead fd len).regs = s.regs := rfl
@[simp] theorem callRead_sr (fd : Byte) (len : Nat) : (s.callRead fd len).sr = s.sr := rfl
@[simp] theorem callRead_sp (fd : Byte) (len : Nat) : (s.callRead fd len).sp = s.sp := rfl
@[simp] theorem callRead_pc (fd : Byte) (len : Nat) : (s.callRead fd len).pc = s.pc := rfl
@[simp] theorem callRead_mem (fd : Byte) (len : Nat) : (s.callRead fd len).mem = s.mem := rfl
@[simp] theorem callRead_icache (fd : Byte) (len : Nat) : (s.callRead fd len).icache = s.icache := rfl
@[simp] theorem callRead_cycles (fd : Byte) (len : Nat) : (s.callRead fd len).cycles = s.cycles := rfl
@[simp] theorem callRead_phase (fd : Byte) (len : Nat) : (s.callRead fd len).phase = s.phase := rfl
@[simp] theorem callRead_halt (fd : Byte) (len : Nat) : (s.callRead fd len).halt = s.halt := rfl
@[simp] theorem callRead_pollCount (fd : Byte) (len : Nat) : (s.callRead fd len).pollCount = s.pollCount := rfl
@[simp] theorem callRead_stopRequest (fd : Byte) (len : Nat) : (s.callRead fd len).stopRequest = s.stopRequest := rfl
@[simp] theorem callRead_loaded (fd : Byte) (len : Nat) : (s.callRead fd len).loaded = s.loaded := rfl
@[simp] theorem callRead_env (fd : Byte) (len : Nat) : (s.callRead fd len).env = { s.env with readAnswers := s.env.readAnswers.tail, hostCalls := .read fd len :: s.env.hostCalls } := rfl
@[simp] theorem callRead_getReg (fd : Byte) (len : Nat) (k : Reg) : (s.callRead fd len).getReg k = s.getReg k := rfl
@[simp] theorem callRead_getPair (fd : Byte) (len : Nat) (k : Reg) : (s.callRead fd len).getPair k = s.getPair k := rfl
@[simp] theorem callRead_byteAt (fd : Byte) (len : Nat) (k : Addr) : (s.callRead fd len).byteAt k = s.byteAt k := rfl

/-! ## `callPoll` -/

@[simp] theorem callPoll_regs : (s.callPoll).regs = s.regs := rfl
@[simp] theorem callPoll_sr : (s.callPoll).sr = s.sr := rfl
@[simp] theorem callPoll_sp : (s.callPoll).sp = s.sp := rfl
@[simp] theorem callPoll_pc : (s.callPoll).pc = s.pc := rfl
@[simp] theorem callPoll_mem : (s.callPoll).mem = s.mem := rfl
@[simp] theorem callPoll_icache : (s.callPoll).icache = s.icache := rfl
@[simp] theorem callPoll_cycles : (s.callPoll).cycles = s.cycles := rfl
@[simp] theorem callPoll_phase : (s.callPoll).phase = s.phase := rfl
@[simp] theorem callPoll_halt : (s.callPoll).halt = s.halt := rfl
@[simp] theorem callPoll_pollCount : (s.callPoll).pollCount = s.pollCount := rfl
@[simp] theorem callPoll_stopRequest : (s.callPoll).stopRequest = s.stopRequest := rfl
@[simp] theorem callPoll_loaded : (s.callPoll).loaded = s.loaded := rfl
@[simp] theorem callPoll_env : (s.callPoll).env = { s.env with pollAnswers := s.env.pollAnswers.tail, hostCalls := .pollQuit :: s.env.hostCalls } := rfl
@[simp] theorem callPoll_getReg (k : Reg) : (s.callPoll).getReg k = s.getReg k := rfl
@[simp] theorem callPoll_getPair (k : Reg) : (s.callPoll).getPair k = s.getPair k := rfl
@[simp] theorem callPoll_byteAt (k : Addr) : (s.callPoll).byteAt k = s.byteAt k := rfl

/-! ## `callTick` -/

@[simp] theorem callTick_regs : (s.callTick).regs = s.regs := rfl
@[simp] theorem callTick_sr : (s.callTick).sr = s.sr := rfl
@[simp] theorem callTick_sp : (s.callTick).sp = s.sp := rfl
@[simp] theorem callTick_pc : (s.callTick).pc = s.pc := rfl
@[simp] theorem callTick_mem : (s.callTick).mem = s.mem := rfl
@[simp] theorem callTick_icache : (s.callTick).icache = s.icache := rfl
@[simp] theorem callTick_cycles : (s.callTick).cycles = s.cycles := rfl
@[simp] theorem callTick_phase : (s.callTick).phase = s.phase := rfl
@[simp] theorem callTick_halt : (s.callTick).halt = s.halt := rfl
@[simp] theorem callTick_pollCount : (s.callTick).pollCount = s.pollCount := rfl
@[simp] theorem callTick_stopRequest : (s.callTick).stopRequest = s.stopRequest := rfl
@[simp] theorem callTick_loaded : (s.callTick).loaded = s.loaded := rfl
@[simp] theorem callTick_getReg (k : Reg) : (s.callTick).getReg k = s.getReg k := rfl
@[simp] theorem callTick_getPair (k : Reg) : (s.callTick).getPair k = s.getPair k := rfl
@[simp] theorem callTick_byteAt (k : Addr) : (s.callTick).byteAt k = s.byteAt k := rfl

/-! ## `beginDispatch` -/

@[simp] theorem beginDispatch_regs : (s.beginDispatch).regs = s.regs := rfl
@[simp] theorem beginDispatch_sr : (s.beginDispatch).sr = s.sr := rfl
@[simp] theorem beginDispatch_sp : (s.beginDispatch).sp = s.sp := rfl
@[simp] theorem beginDispatch_pc : (s.beginDispatch).pc = s.pc := rfl
@[simp] theorem beginDispatch_mem : (s.beginDispatch).mem = s.mem := rfl
@[simp] theorem beginDispatch_icache : (s.beginDispatch).icache = s.icache := rfl
@[simp] theorem beginDispatch_cycles : (s.beginDispatch).cycles = s.cycles + 1 := rfl
@[simp] theorem beginDispatch_phase : (s.beginDispatch).phase = .dispatching := rfl
@[simp] theorem beginDispatch_halt : (s.beginDispatch).halt = s.halt := rfl
@[simp] theorem beginDispatch_pollCount : (s.beginDispatch).pollCount = s.pollCount := rfl
@[simp] theorem beginDispatch_stopRequest : (s.beginDispatch).stopRequest = s.stopRequest := rfl
@[simp] theorem beginDispatch_loaded : (s.beginDispatch).loaded = s.loaded := rfl
@[simp] theorem beginDispatch_env : (s.beginDispatch).env = s.env := rfl
@[simp] theorem beginDispatch_getReg (k : Reg) : (s.beginDispatch).getReg k = s.getReg k := rfl
@[simp] theorem beginDispatch_getPair (k : Reg) : (s.beginDispatch).getPair k = s.getPair k := rfl
@[simp] theorem beginDispatch_byteAt (k : Addr) : (s.beginDispatch).byteAt k = s.byteAt k := rfl

/-! ## `observe` -/

@[simp] theorem observe_regs (a : Addr) (j : Instr) : (s.observe a j).regs = s.regs := rfl
@[simp] theorem observe_sr (a : Addr) (j : Instr) : (s.observe a j).sr = s.sr := rfl
@[simp] theorem observe_sp (a : Addr) (j : Instr) : (s.observe a j).sp = s.sp := rfl
@[simp] theorem observe_pc (a : Addr) (j : Instr) : (s.observe a j).pc = s.pc := rfl
@[simp] theorem observe_mem (a : Addr) (j : Instr) : (s.observe a j).mem = s.mem := rfl
@[simp] theorem observe_icache (a : Addr) (j : Instr) : (s.observe a j).icache = s.icache := rfl
@[simp] theorem observe_cycles (a : Addr) (j : Instr) : (s.observe a j).cycles = s.cycles := rfl
@[simp] theorem observe_phase (a : Addr) (j : Instr) : (s.observe a j).phase = .fetching := rfl
@[simp] theorem observe_halt (a : Addr) (j : Instr) : (s.observe a j).halt = s.halt := rfl
@[simp] theorem observe_pollCount (a : Addr) (j : Instr) : (s.observe a j).pollCount = s.pollCount := rfl
@[simp] theorem observe_stopRequest (a : Addr) (j : Instr) : (s.observe a j).stopRequest = s.stopRequest := rfl
@[simp] theorem observe_loaded (a : Addr) (j : Instr) : (s.observe a j).loaded = s.loaded := rfl
@[simp] theorem observe_env (a : Addr) (j : Instr) : (s.observe a j).env = { s.env with observed := ⟨a, j⟩ :: s.env.observed } := rfl
@[simp] theorem observe_getReg (a : Addr) (j : Instr) (k : Reg) : (s.observe a j).getReg k = s.getReg k := rfl
@[simp] theorem observe_getPair (a : Addr) (j : Instr) (k : Reg) : (s.observe a j).getPair k = s.getPair k := rfl
@[simp] theorem observe_byteAt (a : Addr) (j : Instr) (k : Addr) : (s.observe a j).byteAt k = s.byteAt k := rfl

/-! ## `reply` -/

@[simp] theorem reply_regs (r : Reply) : (s.reply r).regs = s.regs := rfl
@[simp] theorem reply_sr (r : Reply) : (s.reply r).sr = s.sr := rfl
@[simp] theorem reply_sp (r : Reply) : (s.reply r).sp = s.sp := rfl
@[simp] theorem reply_pc (r : Reply) : (s.reply r).pc = s.pc := rfl
@[simp] theorem reply_mem (r : Reply) : (s.reply r).mem = s.mem := rfl
@[simp] theorem reply_icache (r : Reply) : (s.reply r).icache = s.icache := rfl
@[simp] theorem reply_cycles (r : Reply) : (s.reply r).cycles = s.cycles := rfl
@[simp] theorem reply_phase (r : Reply) : (s.reply r).phase = s.phase := rfl
@[simp] theorem reply_halt (r : Reply) : (s.reply r).halt = s.halt := rfl
@[simp] theorem reply_pollCount (r : Reply) : (s.reply r).pollCount = s.pollCount := rfl
@[simp] theorem reply_stopRequest (r : Reply) : (s.reply r).stopRequest = s.stopRequest := rfl
@[simp] theorem reply_loaded (r : Reply) : (s.reply r).loaded = s.loaded := rfl
@[simp] theorem reply_env (r : Reply) : (s.reply r).env = { s.env with replies := r :: s.env.replies } := rfl
@[simp] theorem reply_getReg (r : Reply) (k : Reg) : (s.reply r).getReg k = s.getReg k := rfl
@[simp] theorem reply_getPair (r : Reply) (k : Reg) : (s.reply r).getPair k = s.getPair k := rfl
@[simp] theorem reply_byteAt (r : Reply) (k : Addr) : (s.reply r).byteAt k = s.byteAt k := rfl

end Sys2Proof.Laws
end

