-- ==== Sys2Proof/Laws/Ops.lean ====
section
/-!
SUPPORT. One law per shared operation over registers, memory, the fetch path and the loop: what it can do, said once.
-/

namespace Sys2Proof.Laws

open Sys2Proof.Machine

variable (s : State)

/-! ## Registers -/

theorem getReg_setReg (i j : Reg) (v : Byte) : (s.setReg i v).getReg j = if j = i then v else s.getReg j := by
  have h : i.toNat = j.toNat ↔ j = i := ⟨fun e => (BitVec.eq_of_toNat_eq e).symm, fun e => by rw [e]⟩
  simp [State.getReg, State.setReg, Vector.getElem_set, h]

@[simp] theorem getReg_setReg_self (i : Reg) (v : Byte) : (s.setReg i v).getReg i = v := by simp [getReg_setReg]

theorem getReg_setReg_other {i j : Reg} (h : j ≠ i) (v : Byte) : (s.setReg i v).getReg j = s.getReg j := by
  simp [getReg_setReg, h]

theorem pairHigh_ne (i : Reg) : pairHigh i ≠ i := by revert i; decide

/-- What writing a pair does to every register. -/
theorem getReg_setPair (i j : Reg) (v : Word16) :
    (s.setPair i v).getReg j =
      if j = pairHigh i then v.extractLsb' 8 8 else if j = i then v.extractLsb' 0 8 else s.getReg j := by
  simp only [State.setPair, getReg_setReg]

theorem getLsbD_wordOfBytes (lo hi : Byte) (i : Nat) :
    (wordOfBytes lo hi).getLsbD i = if i < 8 then lo.getLsbD i else hi.getLsbD (i - 8) := by
  unfold wordOfBytes
  exact BitVec.getLsbD_append

/-- A 16-bit value is made of its two bytes. -/
theorem wordOfBytes_extract (v : Word16) : wordOfBytes (v.extractLsb' 0 8) (v.extractLsb' 8 8) = v := by
  apply BitVec.eq_of_getLsbD_eq
  intro i hi
  rw [getLsbD_wordOfBytes]
  split
  · simp [*]
  · simp [show i - 8 < 8 by omega, show 8 + (i - 8) = i by omega]

@[simp] theorem extract_low_wordOfBytes (lo hi : Byte) : (wordOfBytes lo hi).extractLsb' 0 8 = lo := by
  apply BitVec.eq_of_getLsbD_eq
  intro i h
  simp [getLsbD_wordOfBytes, h]

@[simp] theorem extract_high_wordOfBytes (lo hi : Byte) : (wordOfBytes lo hi).extractLsb' 8 8 = hi := by
  apply BitVec.eq_of_getLsbD_eq
  intro i h
  simp [getLsbD_wordOfBytes, h]

@[simp] theorem getPair_setPair_self (i : Reg) (v : Word16) : (s.setPair i v).getPair i = v := by
  simp [State.getPair, getReg_setPair, (pairHigh_ne i).symm, wordOfBytes_extract]

/-! ## Bytes of memory -/

/-- What storing a byte does to every byte. -/
theorem byteAt_storeByte (a b : Addr) (v : Byte) : (s.storeByte a v).byteAt b = if b = a then v else s.byteAt b :=
  memory_read_write s.mem a b v

theorem storeByte_wf {s : State} (h : s.mem.wf) (a : Addr) (v : Byte) : (s.storeByte a v).mem.wf := memory_write_wf h a v

/-- Storing a byte touches memory and cache alone. -/
structure SameButMemory (s t : State) : Prop where
  regs : t.regs = s.regs
  sr : t.sr = s.sr
  sp : t.sp = s.sp
  pc : t.pc = s.pc
  cycles : t.cycles = s.cycles
  phase : t.phase = s.phase
  halt : t.halt = s.halt
  pollCount : t.pollCount = s.pollCount
  stopRequest : t.stopRequest = s.stopRequest
  loaded : t.loaded = s.loaded
  env : t.env = s.env

theorem SameButMemory.rfl' {s : State} : SameButMemory s s := ⟨rfl, rfl, rfl, rfl, rfl, rfl, rfl, rfl, rfl, rfl, rfl⟩

theorem SameButMemory.then {s t u : State} (h : SameButMemory s t) (h' : SameButMemory t u) : SameButMemory s u :=
  ⟨h'.regs.trans h.regs, h'.sr.trans h.sr, h'.sp.trans h.sp, h'.pc.trans h.pc, h'.cycles.trans h.cycles,
   h'.phase.trans h.phase, h'.halt.trans h.halt, h'.pollCount.trans h.pollCount, h'.stopRequest.trans h.stopRequest,
   h'.loaded.trans h.loaded, h'.env.trans h.env⟩

theorem storeByte_same (a : Addr) (v : Byte) : SameButMemory s (s.storeByte a v) :=
  ⟨rfl, rfl, rfl, rfl, rfl, rfl, rfl, rfl, rfl, rfl, rfl⟩

theorem writeLE_same (n : Nat) : ∀ (s : State) (a : Addr) (v : BitVec (8 * n)), SameButMemory s (s.writeLE a n v) := by
  induction n with
  | zero => exact fun _ _ _ => SameButMemory.rfl'
  | succ n ih => exact fun s a v => (storeByte_same s a _).then (ih _ _ _)

theorem writeLE_wf (n : Nat) : ∀ (s : State) (a : Addr) (v : BitVec (8 * n)), s.mem.wf → (s.writeLE a n v).mem.wf := by
  induction n with
  | zero => exact fun _ _ _ h => h
  | succ n ih => exact fun s a v h => ih _ _ _ (storeByte_wf h _ _)

theorem writeBytes_same (vs : List Byte) : ∀ (s : State) (a : Addr), SameButMemory s (s.writeBytes a vs) := by
  induction vs with
  | nil => exact fun _ _ => SameButMemory.rfl'
  | cons v vs ih => exact fun s a => (storeByte_same s a v).then (ih _ _)

theorem writeBytes_wf (vs : List Byte) : ∀ (s : State) (a : Addr), s.mem.wf → (s.writeBytes a vs).mem.wf := by
  induction vs with
  | nil => exact fun _ _ h => h
  | cons v vs ih => exact fun s a h => ih _ _ (storeByte_wf h _ _)

/-- The offset of `b` from `a + 1` is one less than from `a`, where it is not `a` itself. -/
theorem offset_succ {a b : Addr} (h : b ≠ a) : (b - (a + 1#16)).toNat = (b - a).toNat - 1 ∧ 0 < (b - a).toNat := by
  have : b.toNat ≠ a.toNat := fun e => h (BitVec.eq_of_toNat_eq e)
  have := a.isLt; have := b.isLt
  simp only [BitVec.toNat_sub, BitVec.toNat_add, BitVec.toNat_ofNat]
  omega

/-- What a list of stored bytes does to every byte outside them. -/
theorem byteAt_writeBytes_outside (vs : List Byte) :
    ∀ (s : State) (a b : Addr), vs.length ≤ (b - a).toNat → (s.writeBytes a vs).byteAt b = s.byteAt b := by
  induction vs with
  | nil => exact fun _ _ _ _ => rfl
  | cons v vs ih =>
    intro s a b h
    simp only [List.length_cons] at h
    have hne : b ≠ a := by rintro rfl; simp at h
    obtain ⟨ho, -⟩ := offset_succ hne
    rw [State.writeBytes, ih _ _ _ (by omega), byteAt_storeByte, if_neg hne]

/-- What a list of stored bytes, no longer than memory, leaves in its place. -/
theorem byteAt_writeBytes_inside (vs : List Byte) :
    ∀ (s : State) (a b : Addr), (b - a).toNat < vs.length → vs.length ≤ 65536 →
      (s.writeBytes a vs).byteAt b = vs[(b - a).toNat]?.getD 0#8 := by
  induction vs with
  | nil => intro s a b h; simp at h
  | cons v vs ih =>
    intro s a b h hl
    simp only [List.length_cons] at h hl
    by_cases hne : b = a
    · subst hne
      have : (b - (b + 1#16)).toNat = 65535 := by
        have := b.isLt
        simp only [BitVec.toNat_sub, BitVec.toNat_add, BitVec.toNat_ofNat]; omega
      rw [State.writeBytes, byteAt_writeBytes_outside _ _ _ _ (by omega), byteAt_storeByte]
      simp
    · obtain ⟨ho, hpos⟩ := offset_succ hne
      rw [State.writeBytes, ih _ _ _ (by omega) (by omega), ho]
      obtain ⟨m, hm⟩ : ∃ m, (b - a).toNat = m + 1 := ⟨_, (Nat.succ_pred_eq_of_pos hpos).symm⟩
      simp [hm]

/-- A write of `n` bytes stores the bytes of its value, the lowest first. -/
theorem byteAt_writeLE (n : Nat) :
    ∀ (s : State) (a b : Addr) (v : BitVec (8 * n)), n ≤ 65536 →
      (s.writeLE a n v).byteAt b =
        if (b - a).toNat < n then v.extractLsb' (8 * (b - a).toNat) 8 else s.byteAt b := by
  induction n with
  | zero => intro s a b v _; simp [State.writeLE]
  | succ n ih =>
    intro s a b v hn
    rw [State.writeLE, ih _ _ _ _ (by omega), byteAt_storeByte]
    by_cases hne : b = a
    · subst hne
      have : (b - (b + 1#16)).toNat = 65535 := by
        have := b.isLt
        simp only [BitVec.toNat_sub, BitVec.toNat_add, BitVec.toNat_ofNat]; omega
      rw [if_neg (by omega), if_pos rfl, if_pos (by simp)]
      simp
    · obtain ⟨ho, hpos⟩ := offset_succ hne
      by_cases hlt : (b - a).toNat < n + 1
      · rw [if_pos (by omega), if_pos hlt, ho]
        apply BitVec.eq_of_getLsbD_eq
        intro i hi
        simp only [BitVec.getLsbD_extractLsb', hi, decide_true, Bool.true_and,
          show 8 * ((b - a).toNat - 1) + i < 8 * n by omega,
          show 8 + (8 * ((b - a).toNat - 1) + i) = 8 * (b - a).toNat + i by omega]
      · rw [if_neg (by omega), if_neg hlt, if_neg hne]

/-- Byte `j` of a value read is the byte at `a + j`. -/
theorem readLE_byte (n : Nat) :
    ∀ (a : Addr) (j : Nat), j < n → (s.readLE a n).extractLsb' (8 * j) 8 = s.byteAt (a + BitVec.ofNat 16 j) := by
  induction n with
  | zero => intro a j h; omega
  | succ n ih =>
    intro a j h
    cases j with
    | zero =>
      apply BitVec.eq_of_getLsbD_eq
      intro i hi
      simp [State.readLE, BitVec.getLsbD_append, hi]
    | succ j =>
      rw [show a + BitVec.ofNat 16 (j + 1) = (a + 1#16) + BitVec.ofNat 16 j by
        apply BitVec.eq_of_toNat_eq; simp [BitVec.toNat_add]; omega, ← ih (a + 1#16) j (by omega)]
      apply BitVec.eq_of_getLsbD_eq
      intro i hi
      simp [State.readLE, BitVec.getLsbD_append, hi, show ¬ 8 * (j + 1) + i < 8 by omega,
        show 8 * (j + 1) + i - 8 = 8 * j + i by omega]

theorem zeroWidth_append {n : Nat} (x : BitVec 0) (y : BitVec n) : x ++ y = y.cast (Nat.zero_add n).symm := by
  apply BitVec.eq_of_getLsbD_eq
  intro i h
  rw [BitVec.getLsbD_append, if_pos (by omega), BitVec.getLsbD_cast]

theorem readLE_one (a : Addr) : s.readLE a 1 = s.byteAt a := zeroWidth_append _ _

/-- The value of two bytes. -/
theorem readLE_two (a : Addr) : s.readLE a 2 = wordOfBytes (s.byteAt a) (s.byteAt (a + 1#16)) := by
  exact congrArg (fun x : Byte => wordOfBytes (s.byteAt a) x) (readLE_one s (a + 1#16))

/-! ## The access primitives -/

theorem memRead_eq_some {s : State} {a : Addr} {n : Width} {v : BitVec (8 * n.bytes)} :
    s.memRead a n = some v ↔ aligned a n.bytes = true ∧ v = s.readLE a n.bytes := by
  by_cases h : aligned a n.bytes = true
  · rw [State.memRead, if_pos h, Option.some.injEq]
    exact ⟨fun e => ⟨h, e.symm⟩, fun e => e.2.symm⟩
  · rw [State.memRead, if_neg h]
    exact ⟨fun e => (nomatch e), fun e => absurd e.1 h⟩

theorem memWrite_eq_some {s t : State} {a : Addr} {n : Width} {v : BitVec (8 * n.bytes)} :
    s.memWrite a n v = some t ↔ aligned a n.bytes = true ∧ t = s.writeLE a n.bytes v := by
  by_cases h : aligned a n.bytes = true
  · rw [State.memWrite, if_pos h, Option.some.injEq]
    exact ⟨fun e => ⟨h, e.symm⟩, fun e => e.2.symm⟩
  · rw [State.memWrite, if_neg h]
    exact ⟨fun e => (nomatch e), fun e => absurd e.1 h⟩

theorem memWrite_wf {s t : State} {a : Addr} {n : Width} {v : BitVec (8 * n.bytes)} (h : s.mem.wf)
    (ht : s.memWrite a n v = some t) : t.mem.wf := by
  obtain ⟨-, rfl⟩ := memWrite_eq_some.1 ht
  exact writeLE_wf _ _ _ _ h

theorem aligned_iff (a : Addr) (n : Nat) : aligned a n = true ↔ a.toNat % n = 0 := by
  show (false || a.toNat % n == 0) = true ↔ _
  rw [Bool.false_or, beq_iff_eq]

theorem aligned_one (a : Addr) : aligned a 1 = true := (aligned_iff a 1).2 (Nat.mod_one _)

theorem memRead_one (a : Addr) : s.memRead a .one = some (s.byteAt a) :=
  (if_pos (aligned_one a)).trans (congrArg some (readLE_one s a))

theorem memWrite_one (a : Addr) (v : Byte) : s.memWrite a .one v = some (s.storeByte a v) := by
  refine (if_pos (aligned_one a)).trans (congrArg some (congrArg (s.storeByte a) ?_))
  exact BitVec.eq_of_getLsbD_eq fun i h => by simp [h]

/-! ## The fetch path -/

/-- Everything a fetch can do. -/
theorem fetch_cases {s s' : State} {a : Addr} {d : Decoded} (h : s.fetch a = some (d, s')) :
    a.toNat % 2 = 0 ∧
      ((∃ e, tableFind s.icache (slotOf a) = some e ∧ d = e.decoded ∧ s' = s) ∨
       (tableFind s.icache (slotOf a) = none ∧
         d = decode (wordOfBytes (s.byteAt a) (s.byteAt (a + 1#16))) ∧
         s' = { s with icache := tableInsert s.icache (slotOf a) ⟨wordOfBytes (s.byteAt a) (s.byteAt (a + 1#16)), d⟩ })) := by
  unfold State.fetch at h
  rw [readLE_two] at h
  split at h
  · refine ⟨(aligned_iff a 2).1 ‹_›, ?_⟩
    split at h
    · rename_i e he
      simp only [Option.some.injEq, Prod.mk.injEq] at h
      exact .inl ⟨e, he, h.1.symm, h.2.symm⟩
    · rename_i hn
      simp only [Option.some.injEq, Prod.mk.injEq] at h
      obtain ⟨rfl, rfl⟩ := h
      exact .inr ⟨hn, rfl, rfl⟩
  · cases h

/-- A fetch fails exactly where the address is odd. -/
theorem fetch_eq_none {a : Addr} : s.fetch a = none ↔ a.toNat % 2 ≠ 0 := by
  unfold State.fetch
  split
  · have := (aligned_iff a 2).1 ‹_›; split <;> simp [this]
  · simpa using fun e => ‹¬ _› ((aligned_iff a 2).2 e)

/-- A fetch changes the cache alone. -/
theorem fetch_same {s s' : State} {a : Addr} {d : Decoded} (h : s.fetch a = some (d, s')) :
    SameButMemory s s' ∧ s'.mem = s.mem := by
  obtain ⟨-, ⟨e, -, -, rfl⟩ | ⟨-, -, rfl⟩⟩ := fetch_cases h
  · exact ⟨SameButMemory.rfl', rfl⟩
  · exact ⟨⟨rfl, rfl, rfl, rfl, rfl, rfl, rfl, rfl, rfl, rfl, rfl⟩, rfl⟩

/-! ## The loop -/

/-- Everything retirement can do. -/
theorem retire_cases (a : Addr) (i : Instr) :
    (s.phase = .halted ∧ s.retire a i = s) ∨
    (s.phase ≠ .halted ∧ s.env.mode = .singleStep ∧ s.retire a i = (s.observe a i).stop .stepComplete) ∨
    (s.phase ≠ .halted ∧ s.env.mode = .continuous ∧ s.retire a i = s.observe a i) := by
  unfold State.retire
  split
  · exact .inl ⟨‹_›, rfl⟩
  · split
    · exact .inr (.inl ⟨‹_›, ‹_›, rfl⟩)
    · exact .inr (.inr ⟨‹_›, ‹_›, rfl⟩)

/-- The boundary changes the poll counter, the stop request and the environment alone. -/
theorem atBoundary_same :
    s.atBoundary.regs = s.regs ∧ s.atBoundary.sr = s.sr ∧ s.atBoundary.sp = s.sp ∧ s.atBoundary.pc = s.pc ∧
    s.atBoundary.mem = s.mem ∧ s.atBoundary.icache = s.icache ∧ s.atBoundary.cycles = s.cycles ∧
    s.atBoundary.phase = s.phase ∧ s.atBoundary.halt = s.halt ∧ s.atBoundary.loaded = s.loaded := by
  unfold State.atBoundary State.afterTick State.afterPoll
  split <;> simp

/-- What the call of this boundary's tick does. -/
theorem callTick_eq :
    s.callTick = { s with env := { s.env with
      ticks := s.env.ticks.tail
      hostCalls := (if s.tickNow = .none then [] else [.eventTick]) ++ s.env.hostCalls } } := by
  cases h : s.tickNow <;> simp [State.callTick, h]

/-- Everything the boundary can do: it counts down, polls the host where it reaches 0, and calls a pending tick. -/
theorem atBoundary_cases :
    (s.pollDue = true ∧ s.atBoundary =
      { s.callPoll.callTick with
        pollCount := s.env.pollInterval, stopRequest := (s.stopRequest || s.pollAnswer) || s.tickNow.quits }) ∨
    (s.pollDue = false ∧ s.atBoundary =
      { s.callTick with pollCount := s.pollCount - 1, stopRequest := s.stopRequest || s.tickNow.quits }) := by
  unfold State.atBoundary State.afterPoll
  split
  · exact .inl ⟨‹_›, rfl⟩
  · exact .inr ⟨Bool.eq_false_iff.2 ‹_›, rfl⟩

/-! ## TRAP -/

/-- The four cases of TRAP, by its code (45_system R220). -/
theorem execTrap_cases (k : Byte) :
    (k = 0#8 ∧ execTrap k s = .next (s.stop (.exit (s.getReg 0#4)))) ∨ (k = 1#8 ∧ execTrap k s = sysWrite s) ∨
    (k = 2#8 ∧ execTrap k s = sysRead s) ∨ (3 ≤ k.toNat ∧ execTrap k s = .next (s.stop (.trapStop k))) := by
  by_cases h0 : k = 0#8
  · exact .inl ⟨h0, if_pos h0⟩
  by_cases h1 : k = 1#8
  · exact .inr (.inl ⟨h1, (if_neg h0).trans (if_pos h1)⟩)
  by_cases h2 : k = 2#8
  · exact .inr (.inr (.inl ⟨h2, (if_neg h0).trans ((if_neg h1).trans (if_pos h2))⟩))
  have hk : ∀ k : Byte, k ≠ 0#8 → k ≠ 1#8 → k ≠ 2#8 → 3 ≤ k.toNat := by decide
  exact .inr (.inr (.inr ⟨hk k h0 h1 h2, (if_neg h0).trans ((if_neg h1).trans (if_neg h2))⟩))

/-- What the return of a syscall leaves in the registers (45_system R221). -/
theorem getReg_trapReturn (v : Word16) (e : Byte) (j : Reg) :
    (s.trapReturn v e).getReg j =
      if j = 6#4 then e else if j = 1#4 then v.extractLsb' 8 8 else if j = 0#4 then v.extractLsb' 0 8 else s.getReg j := by
  refine (getReg_setReg _ 6#4 j e).trans ?_
  rw [getReg_setPair]
  rfl

end Sys2Proof.Laws
end

