-- ==== Sys2Proof/Laws/PerInstr.lean ====
section
/-!
SUPPORT. The family EncodeSelectsRow: the word of a well-formed instruction selects the instruction's own row of
30_encoding R89.
-/

namespace Sys2Proof.Laws

open Sys2Proof

/-- "A word w selects the row when `w & mask = match` and the row's constraint holds" (30_encoding R89), for the word of an
instruction and its own row. -/
def EncodeSelectsRow.Statement (i : Instr) : Prop := i.wf = true → (rowOf i).selects (encode i) = true

theorem selects_of_mask {row : OpcodeRow} {w : Word16} (h : w &&& row.mask = row.value) (hc : row.constraintOk w = true) :
    row.selects w = true := by
  simp [OpcodeRow.selects, h, hc]

theorem flagConstraint {b b' : BitNo} (h : flagNumberOk b = true) (e : b' = b) : (b' != 7#3) = true := e ▸ h

theorem EncodeSelectsRow.nop : EncodeSelectsRow.Statement .nop :=
  fun _ => by decide

theorem EncodeSelectsRow.brk : EncodeSelectsRow.Statement .brk :=
  fun _ => by decide

theorem EncodeSelectsRow.ret : EncodeSelectsRow.Statement .ret :=
  fun _ => by decide

theorem EncodeSelectsRow.trap (k : Byte) : EncodeSelectsRow.Statement (.trap k) :=
  fun _ => selects_of_mask ((mask_formatT k 0#8).trans (by simp; rfl)) rfl

theorem EncodeSelectsRow.sef (b : BitNo) : EncodeSelectsRow.Statement (.sef b) :=
  fun h => selects_of_mask ((mask_formatF _ 0xF#4 b 0#3).trans (by simp; rfl)) (flagConstraint h (flagField_formatF _ b))

theorem EncodeSelectsRow.clf (b : BitNo) : EncodeSelectsRow.Statement (.clf b) :=
  fun h => selects_of_mask ((mask_formatF _ 0xF#4 b 0#3).trans (by simp; rfl)) (flagConstraint h (flagField_formatF _ b))

theorem EncodeSelectsRow.jmp : EncodeSelectsRow.Statement .jmp :=
  fun _ => by decide

theorem EncodeSelectsRow.call : EncodeSelectsRow.Statement .call :=
  fun _ => by decide

theorem EncodeSelectsRow.push (r : Reg) : EncodeSelectsRow.Statement (.push r) :=
  fun _ => selects_of_mask ((mask_formatU _ _ 0xF#4 0xF#4 r 0#4).trans (by simp; rfl)) rfl

theorem EncodeSelectsRow.pop (d : Reg) : EncodeSelectsRow.Statement (.pop d) :=
  fun _ => selects_of_mask ((mask_formatU _ _ 0xF#4 0xF#4 d 0#4).trans (by simp; rfl)) rfl

theorem EncodeSelectsRow.lsl (d : Reg) : EncodeSelectsRow.Statement (.lsl d) :=
  fun _ => selects_of_mask ((mask_formatU _ _ 0xF#4 0xF#4 d 0#4).trans (by simp; rfl)) rfl

theorem EncodeSelectsRow.lsr (d : Reg) : EncodeSelectsRow.Statement (.lsr d) :=
  fun _ => selects_of_mask ((mask_formatU _ _ 0xF#4 0xF#4 d 0#4).trans (by simp; rfl)) rfl

theorem EncodeSelectsRow.asr (d : Reg) : EncodeSelectsRow.Statement (.asr d) :=
  fun _ => selects_of_mask ((mask_formatU _ _ 0xF#4 0xF#4 d 0#4).trans (by simp; rfl)) rfl

theorem EncodeSelectsRow.rol (d : Reg) : EncodeSelectsRow.Statement (.rol d) :=
  fun _ => selects_of_mask ((mask_formatU _ _ 0xF#4 0xF#4 d 0#4).trans (by simp; rfl)) rfl

theorem EncodeSelectsRow.ror (d : Reg) : EncodeSelectsRow.Statement (.ror d) :=
  fun _ => selects_of_mask ((mask_formatU _ _ 0xF#4 0xF#4 d 0#4).trans (by simp; rfl)) rfl

theorem EncodeSelectsRow.sbrc (b : BitNo) (r : Reg) : EncodeSelectsRow.Statement (.sbrc b r) :=
  fun _ => selects_of_mask ((mask_formatB _ 0xF#4 b 0#3 r 0#4).trans (by simp; rfl)) rfl

theorem EncodeSelectsRow.sbrs (b : BitNo) (r : Reg) : EncodeSelectsRow.Statement (.sbrs b r) :=
  fun _ => selects_of_mask ((mask_formatB _ 0xF#4 b 0#3 r 0#4).trans (by simp; rfl)) rfl

theorem EncodeSelectsRow.add (d r : Reg) : EncodeSelectsRow.Statement (.add d r) :=
  fun _ => selects_of_mask ((mask_formatR _ 0xF#4 d 0#4 r 0#4).trans (by simp; rfl)) rfl

theorem EncodeSelectsRow.adc (d r : Reg) : EncodeSelectsRow.Statement (.adc d r) :=
  fun _ => selects_of_mask ((mask_formatR _ 0xF#4 d 0#4 r 0#4).trans (by simp; rfl)) rfl

theorem EncodeSelectsRow.sub (d r : Reg) : EncodeSelectsRow.Statement (.sub d r) :=
  fun _ => selects_of_mask ((mask_formatR _ 0xF#4 d 0#4 r 0#4).trans (by simp; rfl)) rfl

theorem EncodeSelectsRow.sbc (d r : Reg) : EncodeSelectsRow.Statement (.sbc d r) :=
  fun _ => selects_of_mask ((mask_formatR _ 0xF#4 d 0#4 r 0#4).trans (by simp; rfl)) rfl

theorem EncodeSelectsRow.cp (d r : Reg) : EncodeSelectsRow.Statement (.cp d r) :=
  fun _ => selects_of_mask ((mask_formatR _ 0xF#4 d 0#4 r 0#4).trans (by simp; rfl)) rfl

theorem EncodeSelectsRow.and (d r : Reg) : EncodeSelectsRow.Statement (.and d r) :=
  fun _ => selects_of_mask ((mask_formatR _ 0xF#4 d 0#4 r 0#4).trans (by simp; rfl)) rfl

theorem EncodeSelectsRow.or (d r : Reg) : EncodeSelectsRow.Statement (.or d r) :=
  fun _ => selects_of_mask ((mask_formatR _ 0xF#4 d 0#4 r 0#4).trans (by simp; rfl)) rfl

theorem EncodeSelectsRow.xor (d r : Reg) : EncodeSelectsRow.Statement (.xor d r) :=
  fun _ => selects_of_mask ((mask_formatR _ 0xF#4 d 0#4 r 0#4).trans (by simp; rfl)) rfl

theorem EncodeSelectsRow.mov (d r : Reg) : EncodeSelectsRow.Statement (.mov d r) :=
  fun _ => selects_of_mask ((mask_formatR _ 0xF#4 d 0#4 r 0#4).trans (by simp; rfl)) rfl

theorem EncodeSelectsRow.cpse (d r : Reg) : EncodeSelectsRow.Statement (.cpse d r) :=
  fun _ => selects_of_mask ((mask_formatR _ 0xF#4 d 0#4 r 0#4).trans (by simp; rfl)) rfl

theorem EncodeSelectsRow.ldb (d r : Reg) : EncodeSelectsRow.Statement (.ldb d r) :=
  fun h => selects_of_mask ((mask_formatR _ 0xF#4 d 0#4 r 1#4).trans (by rw [pair_and_one r h]; simp; rfl)) rfl

theorem EncodeSelectsRow.stb (d r : Reg) : EncodeSelectsRow.Statement (.stb d r) :=
  fun h => selects_of_mask ((mask_formatR _ 0xF#4 d 0#4 r 1#4).trans (by rw [pair_and_one r h]; simp; rfl)) rfl

theorem EncodeSelectsRow.ldw (d r : Reg) : EncodeSelectsRow.Statement (.ldw d r) :=
  fun h => selects_of_mask ((mask_formatR _ 0xF#4 d 1#4 r 1#4).trans
    (by rw [pair_and_one d (Bool.and_eq_true_iff.1 h).1, pair_and_one r (Bool.and_eq_true_iff.1 h).2]; rfl)) rfl

theorem EncodeSelectsRow.stw (d r : Reg) : EncodeSelectsRow.Statement (.stw d r) :=
  fun h => selects_of_mask ((mask_formatR _ 0xF#4 d 1#4 r 1#4).trans
    (by rw [pair_and_one d (Bool.and_eq_true_iff.1 h).1, pair_and_one r (Bool.and_eq_true_iff.1 h).2]; rfl)) rfl

theorem EncodeSelectsRow.ldi (d : Reg) (k : Byte) : EncodeSelectsRow.Statement (.ldi d k) :=
  fun _ => selects_of_mask ((mask_formatI _ 0xF#4 d 0#4 k 0#8).trans (by simp; rfl)) rfl

theorem EncodeSelectsRow.addi (d : Reg) (k : Byte) : EncodeSelectsRow.Statement (.addi d k) :=
  fun _ => selects_of_mask ((mask_formatI _ 0xF#4 d 0#4 k 0#8).trans (by simp; rfl)) rfl

theorem EncodeSelectsRow.subi (d : Reg) (k : Byte) : EncodeSelectsRow.Statement (.subi d k) :=
  fun _ => selects_of_mask ((mask_formatI _ 0xF#4 d 0#4 k 0#8).trans (by simp; rfl)) rfl

theorem EncodeSelectsRow.cpi (d : Reg) (k : Byte) : EncodeSelectsRow.Statement (.cpi d k) :=
  fun _ => selects_of_mask ((mask_formatI _ 0xF#4 d 0#4 k 0#8).trans (by simp; rfl)) rfl

theorem EncodeSelectsRow.andi (d : Reg) (k : Byte) : EncodeSelectsRow.Statement (.andi d k) :=
  fun _ => selects_of_mask ((mask_formatI _ 0xF#4 d 0#4 k 0#8).trans (by simp; rfl)) rfl

theorem EncodeSelectsRow.ori (d : Reg) (k : Byte) : EncodeSelectsRow.Statement (.ori d k) :=
  fun _ => selects_of_mask ((mask_formatI _ 0xF#4 d 0#4 k 0#8).trans (by simp; rfl)) rfl

theorem EncodeSelectsRow.rjmp (k : BitVec 12) : EncodeSelectsRow.Statement (.rjmp k) :=
  fun _ => selects_of_mask ((mask_formatJ k 0#12).trans (by simp; rfl)) rfl

theorem EncodeSelectsRow.brbc (b : BitNo) (k : Byte) : EncodeSelectsRow.Statement (.brbc b k) :=
  fun h => selects_of_mask ((mask_formatC _ 1#1 b 0#3 k 0#8).trans (by simp; rfl)) (flagConstraint h (flagField_formatC _ b k))

theorem EncodeSelectsRow.brbs (b : BitNo) (k : Byte) : EncodeSelectsRow.Statement (.brbs b k) :=
  fun h => selects_of_mask ((mask_formatC _ 1#1 b 0#3 k 0#8).trans (by simp; rfl)) (flagConstraint h (flagField_formatC _ b k))

end Sys2Proof.Laws
end

