-- ==== Sys2Proof/Tests/Slice0.lean ====
section
/-!
SUPPORT. Tests. Expected values are those of 95_test_vectors and of the encoding tables of 30_encoding, never the model's own
answers. Then a witness for the hypotheses of every statement that has some.
-/

namespace Sys2Proof.Tests

open Sys2Proof Sys2Proof.Machine Sys2Proof.Statements

/-! ## Well-formedness: each check refuses an ill-formed term (30_encoding R86 to R88, R93) -/

theorem test_wf_refuses_sef_7 : Instr.wf (.sef 7#3) = false := by decide
theorem test_wf_refuses_clf_7 : Instr.wf (.clf 7#3) = false := by decide
theorem test_wf_refuses_brbc_7 : Instr.wf (.brbc 7#3 0#8) = false := by decide
theorem test_wf_refuses_brbs_7 : Instr.wf (.brbs 7#3 0#8) = false := by decide
theorem test_wf_refuses_ldb_odd_pair : Instr.wf (.ldb 0#4 3#4) = false := by decide
theorem test_wf_refuses_stb_odd_pair : Instr.wf (.stb 0#4 15#4) = false := by decide
theorem test_wf_refuses_ldw_odd_data : Instr.wf (.ldw 3#4 4#4) = false := by decide
theorem test_wf_refuses_ldw_odd_address : Instr.wf (.ldw 2#4 5#4) = false := by decide
theorem test_wf_refuses_stw_odd_data : Instr.wf (.stw 1#4 2#4) = false := by decide
theorem test_wf_refuses_stw_odd_address : Instr.wf (.stw 0#4 1#4) = false := by decide

/-! ## Decoding: the words of 95_test_vectors 2.5 and of the vectors of 2.1 to 2.8 -/

theorem test_decode_nop : decode 0x0001#16 = .legal .nop := by decide
theorem test_decode_brk : decode 0x0002#16 = .legal .brk := by decide
theorem test_decode_ret : decode 0x0003#16 = .legal .ret := by decide
theorem test_decode_trap : decode 0x01FF#16 = .legal (.trap 0xFF#8) := by decide
theorem test_decode_sef : decode 0x0206#16 = .legal (.sef 6#3) := by decide
theorem test_decode_clf : decode 0x0306#16 = .legal (.clf 6#3) := by decide
theorem test_decode_jmp : decode 0x0400#16 = .legal .jmp := by decide
theorem test_decode_call : decode 0x0500#16 = .legal .call := by decide
theorem test_decode_push : decode 0x0605#16 = .legal (.push 5#4) := by decide
theorem test_decode_pop : decode 0x061F#16 = .legal (.pop 15#4) := by decide
theorem test_decode_lsl : decode 0x0700#16 = .legal (.lsl 0#4) := by decide
theorem test_decode_lsr : decode 0x0719#16 = .legal (.lsr 9#4) := by decide
theorem test_decode_asr : decode 0x0723#16 = .legal (.asr 3#4) := by decide
theorem test_decode_rol : decode 0x073E#16 = .legal (.rol 14#4) := by decide
theorem test_decode_ror : decode 0x074F#16 = .legal (.ror 15#4) := by decide
theorem test_decode_sbrc : decode 0x0835#16 = .legal (.sbrc 3#3 5#4) := by decide
theorem test_decode_sbrs : decode 0x097F#16 = .legal (.sbrs 7#3 15#4) := by decide
theorem test_decode_add : decode 0x1012#16 = .legal (.add 1#4 2#4) := by decide
theorem test_decode_adc : decode 0x1112#16 = .legal (.adc 1#4 2#4) := by decide
theorem test_decode_sub : decode 0x1244#16 = .legal (.sub 4#4 4#4) := by decide
theorem test_decode_sbc : decode 0x1312#16 = .legal (.sbc 1#4 2#4) := by decide
theorem test_decode_cp : decode 0x1412#16 = .legal (.cp 1#4 2#4) := by decide
theorem test_decode_and : decode 0x1512#16 = .legal (.and 1#4 2#4) := by decide
theorem test_decode_or : decode 0x1612#16 = .legal (.or 1#4 2#4) := by decide
theorem test_decode_xor : decode 0x1755#16 = .legal (.xor 5#4 5#4) := by decide
theorem test_decode_mov : decode 0x1812#16 = .legal (.mov 1#4 2#4) := by decide
theorem test_decode_cpse : decode 0x1933#16 = .legal (.cpse 3#4 3#4) := by decide
theorem test_decode_ldb : decode 0x1A12#16 = .legal (.ldb 1#4 2#4) := by decide
theorem test_decode_stb : decode 0x1B42#16 = .legal (.stb 4#4 2#4) := by decide
theorem test_decode_ldw : decode 0x1C24#16 = .legal (.ldw 2#4 4#4) := by decide
theorem test_decode_stw : decode 0x1D02#16 = .legal (.stw 0#4 2#4) := by decide
theorem test_decode_ldi : decode 0x2A7F#16 = .legal (.ldi 10#4 0x7F#8) := by decide
theorem test_decode_addi : decode 0x3001#16 = .legal (.addi 0#4 0x01#8) := by decide
theorem test_decode_subi : decode 0x4101#16 = .legal (.subi 1#4 0x01#8) := by decide
theorem test_decode_cpi : decode 0x5701#16 = .legal (.cpi 7#4 0x01#8) := by decide
theorem test_decode_andi : decode 0x6F0F#16 = .legal (.andi 15#4 0x0F#8) := by decide
theorem test_decode_ori : decode 0x7FFF#16 = .legal (.ori 15#4 0xFF#8) := by decide
theorem test_decode_rjmp : decode 0xC800#16 = .legal (.rjmp 0x800#12) := by decide
theorem test_decode_brbc : decode 0xE6FE#16 = .legal (.brbc 6#3 0xFE#8) := by decide
theorem test_decode_brbs : decode 0xEEFF#16 = .legal (.brbs 6#3 0xFF#8) := by decide

/-- The ILLEGAL words of the table, one at least for each case of 30_encoding R93. -/
theorem test_decode_illegal :
    [0x0000#16, 0x0004#16, 0x00FF#16, 0x0207#16, 0x0208#16, 0x0401#16, 0x05FF#16, 0x0620#16, 0x0750#16, 0x0885#16, 0x0A00#16,
     0x0FFF#16, 0x1A13#16, 0x1C34#16, 0x1C25#16, 0x1E00#16, 0x1F00#16, 0x8000#16, 0xB000#16, 0xD000#16, 0xE700#16, 0xEF00#16,
     0xF000#16, 0xFFFF#16].all (fun w => decode w == .illegal) = true := by decide

theorem test_decodeTableWord_add : decodeTableWord 16 0x1012 = some (.add 1#4 2#4) := by decide
/-- `JMP 0x0100`: the second word is bits 31 to 16. -/
theorem test_decodeTableWord_jmp : decodeTableWord 32 0x01000400 = some .jmp := by decide

/-! ## One step -/

/-- A loaded, running core with these registers, status register and bytes of memory; the rest as after reset. -/
def machine (regs : List (Reg × Byte)) (sr : Byte) (bytes : List (Addr × Byte)) : State :=
  let s := regs.foldl (fun s p => s.setReg p.1 p.2) { State.reset with sr := sr, phase := .fetching, loaded := true }
  bytes.foldl (fun s p => s.storeByte p.1 p.2) s

/-- The state an outcome goes to. -/
def after (o : Host.Outcome State Fault Refusal) : State :=
  match o with
  | .next t => t
  | _ => State.reset

/-- `x[d]` and `sr` after an instruction that retires. -/
def result (i : Instr) (d : Reg) (s : State) : Byte × Byte := ((after (exec i s)).getReg d, (after (exec i s)).sr)

/-- 95_test_vectors, S3, 1112. -/
theorem test_adc_flag_exactness : result (.adc 1#4 2#4) 1#4 (machine [(1#4, 0xFF#8), (2#4, 0x01#8)] 0x00#8 []) = (0x00#8, 0x23#8) := by decide
/-- 95_test_vectors, 1111. -/
theorem test_adc_same_register : result (.adc 1#4 1#4) 1#4 (machine [(1#4, 0x80#8)] 0x02#8 []) = (0x01#8, 0x1A#8) := by decide
/-- 95_test_vectors, 1033. -/
theorem test_add_same_register : result (.add 3#4 3#4) 3#4 (machine [(3#4, 0x81#8)] 0x00#8 []) = (0x02#8, 0x1A#8) := by decide
/-- 95_test_vectors, row 00 + 00, sr = 62. -/
theorem test_add_keeps_i : result (.add 1#4 2#4) 1#4 (machine [] 0x62#8 []) = (0x00#8, 0x41#8) := by decide
/-- 95_test_vectors, 30FF. -/
theorem test_addi_wraps : result (.addi 0#4 0xFF#8) 0#4 (machine [(0#4, 0x01#8)] 0x00#8 []) = (0x00#8, 0x23#8) := by decide
/-- 95_test_vectors, 3001. -/
theorem test_addi_ignores_c : result (.addi 0#4 0x01#8) 0#4 (machine [(0#4, 0x0F#8)] 0x02#8 []) = (0x10#8, 0x20#8) := by decide
/-- 95_test_vectors, 1244. -/
theorem test_sub_self : result (.sub 4#4 4#4) 4#4 (machine [(4#4, 0x5A#8)] 0x7E#8 []) = (0x00#8, 0x41#8) := by decide
/-- 95_test_vectors, row 80 - 01. -/
theorem test_sub_signed_overflow : result (.sub 1#4 2#4) 1#4 (machine [(1#4, 0x80#8), (2#4, 0x01#8)] 0x00#8 []) = (0x7F#8, 0x38#8) := by decide
/-- 95_test_vectors, 1312. -/
theorem test_sbc_borrow_in : result (.sbc 1#4 2#4) 1#4 (machine [] 0x02#8 []) = (0xFF#8, 0x36#8) := by decide
/-- 95_test_vectors, 1312. -/
theorem test_sbc_z_of_this_result : result (.sbc 1#4 2#4) 1#4 (machine [(1#4, 0x01#8)] 0x03#8 []) = (0x00#8, 0x01#8) := by decide
/-- 95_test_vectors, 1412. -/
theorem test_cp_lower : result (.cp 1#4 2#4) 1#4 (machine [(1#4, 0x10#8), (2#4, 0x20#8)] 0x00#8 []) = (0x10#8, 0x16#8) := by decide
/-- 95_test_vectors, 1412. -/
theorem test_cp_equal : result (.cp 1#4 2#4) 1#4 (machine [(1#4, 0x33#8), (2#4, 0x33#8)] 0x40#8 []) = (0x33#8, 0x41#8) := by decide
/-- 95_test_vectors, 4101. -/
theorem test_subi_borrow : result (.subi 1#4 0x01#8) 1#4 (machine [] 0x00#8 []) = (0xFF#8, 0x36#8) := by decide
/-- 95_test_vectors, 4180. -/
theorem test_subi_equal : result (.subi 1#4 0x80#8) 1#4 (machine [(1#4, 0x80#8)] 0x00#8 []) = (0x00#8, 0x01#8) := by decide
/-- 95_test_vectors, 5701. -/
theorem test_cpi_borrow : result (.cpi 7#4 0x01#8) 7#4 (machine [] 0x00#8 []) = (0x00#8, 0x36#8) := by decide
/-- 95_test_vectors, 5780. -/
theorem test_cpi_overflow : result (.cpi 7#4 0x80#8) 7#4 (machine [(7#4, 0x7F#8)] 0x00#8 []) = (0x7F#8, 0x0E#8) := by decide
/-- 95_test_vectors, 1512. -/
theorem test_and_keeps_c_h : result (.and 1#4 2#4) 1#4 (machine [(1#4, 0xF0#8), (2#4, 0x3C#8)] 0x22#8 []) = (0x30#8, 0x22#8) := by decide
/-- 95_test_vectors, 1612. -/
theorem test_or_negative : result (.or 1#4 2#4) 1#4 (machine [(1#4, 0x80#8), (2#4, 0x01#8)] 0x0A#8 []) = (0x81#8, 0x16#8) := by decide
/-- 95_test_vectors, 1755. -/
theorem test_xor_self : result (.xor 5#4 5#4) 5#4 (machine [(5#4, 0xC3#8)] 0x02#8 []) = (0x00#8, 0x03#8) := by decide
/-- 95_test_vectors, 6F0F. -/
theorem test_andi : result (.andi 15#4 0x0F#8) 15#4 (machine [(15#4, 0xA5#8)] 0x0A#8 []) = (0x05#8, 0x02#8) := by decide
/-- 95_test_vectors, 7FFF. -/
theorem test_ori : result (.ori 15#4 0xFF#8) 15#4 (machine [] 0x01#8 []) = (0xFF#8, 0x14#8) := by decide
/-- 95_test_vectors, 1812. -/
theorem test_mov_no_flag : result (.mov 1#4 2#4) 1#4 (machine [(1#4, 0x11#8), (2#4, 0x99#8)] 0x7F#8 []) = (0x99#8, 0x7F#8) := by decide
/-- 95_test_vectors, 2A7F. -/
theorem test_ldi_no_flag : result (.ldi 10#4 0x7F#8) 10#4 (machine [] 0x7F#8 []) = (0x7F#8, 0x7F#8) := by decide
/-- 95_test_vectors, 0700. -/
theorem test_lsl : result (.lsl 0#4) 0#4 (machine [(0#4, 0x80#8)] 0x00#8 []) = (0x00#8, 0x1B#8) := by decide
/-- 95_test_vectors, row C0, sr = 20. -/
theorem test_lsl_keeps_h : result (.lsl 0#4) 0#4 (machine [(0#4, 0xC0#8)] 0x20#8 []) = (0x80#8, 0x36#8) := by decide
/-- 95_test_vectors, row 80, sr = 04. -/
theorem test_lsr_clears_n : result (.lsr 9#4) 9#4 (machine [(9#4, 0x80#8)] 0x04#8 []) = (0x40#8, 0x00#8) := by decide
/-- 95_test_vectors, row 01. -/
theorem test_lsr_out : result (.lsr 9#4) 9#4 (machine [(9#4, 0x01#8)] 0x00#8 []) = (0x00#8, 0x1B#8) := by decide
/-- 95_test_vectors, 0723. -/
theorem test_asr_sign : result (.asr 3#4) 3#4 (machine [(3#4, 0x81#8)] 0x00#8 []) = (0xC0#8, 0x16#8) := by decide
/-- 95_test_vectors, row 7E. -/
theorem test_asr_positive : result (.asr 3#4) 3#4 (machine [(3#4, 0x7E#8)] 0x00#8 []) = (0x3F#8, 0x00#8) := by decide
/-- 95_test_vectors, row 80, sr = 02. -/
theorem test_rol_carry_in : result (.rol 14#4) 14#4 (machine [(14#4, 0x80#8)] 0x02#8 []) = (0x01#8, 0x1A#8) := by decide
/-- 95_test_vectors, row 40. -/
theorem test_rol_no_carry : result (.rol 14#4) 14#4 (machine [(14#4, 0x40#8)] 0x00#8 []) = (0x80#8, 0x0C#8) := by decide
/-- 95_test_vectors, 074F. -/
theorem test_ror_carry_in : result (.ror 15#4) 15#4 (machine [(15#4, 0x01#8)] 0x02#8 []) = (0x80#8, 0x16#8) := by decide
/-- 95_test_vectors, row 02, sr = 40. -/
theorem test_ror_keeps_i : result (.ror 15#4) 15#4 (machine [(15#4, 0x02#8)] 0x40#8 []) = (0x01#8, 0x40#8) := by decide
/-- 95_test_vectors, 0206. -/
theorem test_sef_i : result (.sef 6#3) 0#4 (machine [] 0x01#8 []) = (0x00#8, 0x41#8) := by decide
/-- 95_test_vectors, 0201. -/
theorem test_sef_c : result (.sef 1#3) 0#4 (machine [] 0x00#8 []) = (0x00#8, 0x02#8) := by decide
/-- 95_test_vectors, 0306. -/
theorem test_clf_i : result (.clf 6#3) 0#4 (machine [] 0x7F#8 []) = (0x00#8, 0x3F#8) := by decide
/-- 95_test_vectors, 0300. -/
theorem test_clf_z : result (.clf 0#3) 0#4 (machine [] 0x01#8 []) = (0x00#8, 0x00#8) := by decide

/-- 95_test_vectors 2.4, 0001: nothing but `pc` changes. -/
theorem test_nop : exec .nop (machine [] 0x55#8 []) = .next { machine [] 0x55#8 [] with pc := 2#16 } := rfl

/-- `pc` after an instruction at address `a`. -/
def pcAfter (i : Instr) (a : Addr) (s : State) : Addr := (after (exec i { s with pc := a })).pc

/-- 95_test_vectors 2.6, CFFC. -/
theorem test_rjmp_backward : pcAfter (.rjmp 0xFFC#12) 0x0100#16 (machine [] 0x00#8 []) = 0x00FA#16 := by decide
/-- 95_test_vectors 2.6, CFFE. -/
theorem test_rjmp_wraps : pcAfter (.rjmp 0xFFE#12) 0x0000#16 (machine [] 0x00#8 []) = 0xFFFE#16 := by decide
/-- 95_test_vectors 2.6, E804. -/
theorem test_brbs_taken : pcAfter (.brbs 0#3 4#8) 0x0200#16 (machine [] 0x01#8 []) = 0x020A#16 := by decide
/-- 95_test_vectors 2.6, E804. -/
theorem test_brbs_not_taken : pcAfter (.brbs 0#3 4#8) 0x0200#16 (machine [] 0x00#8 []) = 0x0202#16 := by decide
/-- 95_test_vectors 2.6, E180. -/
theorem test_brbc_taken : pcAfter (.brbc 1#3 0x80#8) 0x0200#16 (machine [] 0x00#8 []) = 0x0102#16 := by decide
/-- 95_test_vectors 2.6, E17F. -/
theorem test_brbc_not_taken : pcAfter (.brbc 1#3 0x7F#8) 0x0200#16 (machine [] 0x02#8 []) = 0x0202#16 := by decide
/-- 95_test_vectors 2.6, 0400 1234. -/
theorem test_jmp : pcAfter .jmp 0x0010#16 (machine [] 0x00#8 [(0x0012#16, 0x34#8), (0x0013#16, 0x12#8)]) = 0x1234#16 := by decide
/-- 95_test_vectors 2.6, 0400 at FFFE. -/
theorem test_jmp_across_the_wrap : pcAfter .jmp 0xFFFE#16 (machine [] 0x00#8 [(0x0000#16, 0x34#8), (0x0001#16, 0x12#8)]) = 0x1234#16 := by decide
/-- 95_test_vectors 2.6, 1912 0400 0100. -/
theorem test_cpse_over_jmp : pcAfter (.cpse 1#4 2#4) 0x0000#16 (machine [(1#4, 0x02#8), (2#4, 0x02#8)] 0x00#8 [(0x0003#16, 0x04#8)]) = 0x0006#16 := by decide
/-- 95_test_vectors 2.6, 1933 0401. -/
theorem test_cpse_over_illegal : pcAfter (.cpse 3#4 3#4) 0x0000#16 (machine [(3#4, 0x07#8)] 0x00#8 [(0x0002#16, 0x01#8), (0x0003#16, 0x04#8)]) = 0x0004#16 := by decide
/-- 95_test_vectors 2.6, 0835 0001. -/
theorem test_sbrc_set : pcAfter (.sbrc 3#3 5#4) 0x0000#16 (machine [(5#4, 0x08#8)] 0x00#8 [(0x0002#16, 0x01#8)]) = 0x0002#16 := by decide
/-- 95_test_vectors 2.6, 0835 0001. -/
theorem test_sbrc_clear : pcAfter (.sbrc 3#3 5#4) 0x0000#16 (machine [(5#4, 0xF7#8)] 0x00#8 [(0x0002#16, 0x01#8)]) = 0x0004#16 := by decide
/-- 95_test_vectors 2.6, FFFC, 0970 0400. -/
theorem test_sbrs_wraps : pcAfter (.sbrs 7#3 0#4) 0xFFFC#16 (machine [(0#4, 0x80#8)] 0x00#8 [(0xFFFF#16, 0x04#8)]) = 0x0002#16 := by decide
/-- 95_test_vectors 2.6, 0971 0400 0100. -/
theorem test_sbrs_clear : pcAfter (.sbrs 7#3 1#4) 0x0000#16 (machine [(1#4, 0x7F#8)] 0x00#8 [(0x0003#16, 0x04#8)]) = 0x0002#16 := by decide

/-- 95_test_vectors 2.6, CALL with sp = 0001: the high byte lies at 0000, the low byte at FFFF. -/
theorem test_call_pushes :
    let t := after (exec .call { machine [] 0#8 [(0x12#16, 0x40#8)] with pc := 0x10#16, sp := 1#16 })
    (t.pc, t.sp, t.byteAt 0#16, t.byteAt 0xFFFF#16) = (0x40#16, 0xFFFF#16, 0x00#8, 0x14#8) := by decide

/-- 95_test_vectors 2.6, RET across the wrap. -/
theorem test_ret_across_the_wrap :
    let t := after (exec .ret { machine [] 0#8 [(0xFFFF#16, 0x40#8)] with pc := 0x10#16, sp := 0xFFFF#16 })
    (t.pc, t.sp) = (0x40#16, 1#16) := by decide

/-- 95_test_vectors 2.7, LDB r2, (r2): the address is read first. -/
theorem test_ldb_reads_address_first :
    let t := after (exec (.ldb 2#4 2#4) (machine [(2#4, 0x34#8), (3#4, 0x12#8)] 0#8 [(0x1234#16, 0xAB#8)]))
    (t.getReg 2#4, t.getReg 3#4) = (0xAB#8, 0x12#8) := by decide

/-- 95_test_vectors 2.7, STB r2, (r2). -/
theorem test_stb_own_pair :
    (after (exec (.stb 2#4 2#4) (machine [(3#4, 3#8)] 0#8 [(0x300#16, 9#8)]))).byteAt 0x300#16 = 0#8 := by decide

/-- 95_test_vectors 2.7, LDW r2, (r2). -/
theorem test_ldw_own_pair :
    let t := after (exec (.ldw 2#4 2#4) (machine [(3#4, 2#8)] 0#8 [(0x200#16, 0x78#8), (0x201#16, 0x56#8)]))
    (t.getReg 2#4, t.getReg 3#4) = (0x78#8, 0x56#8) := by decide

/-- 95_test_vectors 2.7, LDW at an odd address. -/
theorem test_ldw_odd :
    let t := after (exec (.ldw 0#4 2#4) (machine [(2#4, 1#8), (3#4, 2#8)] 0#8 []))
    (t.halt, t.pc) = (some ⟨.stopped, 10⟩, 0#16) := by decide

/-- 95_test_vectors 2.7, STW. -/
theorem test_stw :
    let t := after (exec (.stw 0#4 2#4) (machine [(0#4, 0xCD#8), (1#4, 0xAB#8), (3#4, 3#8)] 0#8 []))
    (t.byteAt 0x300#16, t.byteAt 0x301#16) = (0xCD#8, 0xAB#8) := by decide

/-- 95_test_vectors 2.7, STW at an odd address. -/
theorem test_stw_odd :
    let t := after (exec (.stw 0#4 2#4) (machine [(0#4, 0xCD#8), (2#4, 1#8), (3#4, 3#8)] 0#8 []))
    (t.halt, t.byteAt 0x301#16) = (some ⟨.stopped, 10⟩, 0#8) := by decide

/-- 95_test_vectors 2.7, PUSH r5 with sp = 0000. -/
theorem test_push_wraps :
    let t := after (exec (.push 5#4) (machine [(5#4, 0xAB#8)] 0#8 []))
    (t.byteAt 0xFFFF#16, t.sp) = (0xAB#8, 0xFFFF#16) := by decide

/-- 95_test_vectors 2.7, POP r9 with sp = FFFF. -/
theorem test_pop_wraps :
    let t := after (exec (.pop 9#4) { machine [] 0#8 [(0xFFFF#16, 0xAB#8)] with sp := 0xFFFF#16 })
    (t.getReg 9#4, t.sp) = (0xAB#8, 0#16) := by decide

/-- 95_test_vectors 2.8, TRAP 0. -/
theorem test_trap_exit : (after (exec (.trap 0#8) (machine [(0#4, 0xFF#8)] 0#8 []))).halt = some ⟨.exited, 255⟩ := by decide

/-- 95_test_vectors 2.8, TRAP 2: two of four bytes come. -/
theorem test_trap_read :
    let s := machine [(3#4, 2#8), (4#4, 4#8)] 0#8 []
    let t := after (exec (.trap 2#8) { s with env := { s.env with readAnswers := [.success [0x41#8, 0x42#8]] } })
    (t.byteAt 0x200#16, t.byteAt 0x201#16, t.getReg 0#4, t.getReg 6#4) = (0x41#8, 0x42#8, 2#8, 0#8) := by decide

/-- 95_test_vectors 2.8, BREAK. -/
theorem test_break : (after (exec .brk (machine [] 0#8 []))).halt = some ⟨.stopped, 5⟩ := by decide

/-- 95_test_vectors 2.8: run(single-step) over LDI r0, 5 of program P1. -/
theorem test_single_step :
    let s := machine [] 0#8 [(0#16, 0x05#8), (1#16, 0x20#8), (3#16, 0x01#8)]
    let t := after (step { s with env := { s.env with mode := .singleStep } })
    (t.halt, t.pc, t.getReg 0#4, t.cycles) = (some ⟨.stopped, 5⟩, 2#16, 5#8, 1) := by decide

/-- 95_test_vectors 2.8: memory as reset left it. -/
theorem test_step_into_zeros :
    let t := after (step (machine [] 0#8 []))
    (t.halt, t.pc, t.cycles) = (some ⟨.stopped, 4⟩, 0#16, 1) := by decide

/-- 95_test_vectors 2.8: an odd entry address. -/
theorem test_step_at_odd_pc :
    let t := after (step { machine [] 0#8 [] with pc := 1#16 })
    (t.halt, t.pc, t.cycles) = (some ⟨.stopped, 10⟩, 1#16, 0) := by decide

/-- 95_test_vectors S2: a word fetched, overwritten by STW and fetched again decodes afresh. -/
theorem test_store_empties_the_slot :
    let s := machine [(0#4, 0x07#8), (1#4, 0x20#8), (2#4, 0x0C#8)] 0#8 [(0x0C#16, 0x03#8), (0x0D#16, 0x20#8)]
    let fetched := { s with icache := [(6, ⟨0x2003#16, .legal (.ldi 0#4 3#8)⟩)] }
    ((after (exec (.stw 0#4 2#4) fetched)).fetch 0x0C#16).map (·.1) = some (.legal (.ldi 0#4 7#8)) := by decide

/-! ## Witnesses: the hypotheses of the statements can be met -/

theorem coherent_of_empty {s : State} (h : s.icache = []) : CacheCoherent s := by
  intro i e he
  rw [h] at he
  exact nomatch he

/-- An empty core at an address. -/
def coreAt (pc : Addr) : State := { machine [] 0#8 [] with pc := pc }

/-- LDI r0, 5 in the last slot of memory, with `pc` at it. -/
def ldiAtTop : State := { machine [] 0#8 [(0xFFFE#16, 0x05#8), (0xFFFF#16, 0x20#8)] with pc := 0xFFFE#16 }

/-- The same, with the word already in the cache. -/
def ldiCached : State := { ldiAtTop with icache := [(32767, ⟨0x2005#16, .legal (.ldi 0#4 5#8)⟩)] }

theorem ldiCached_coherent : CacheCoherent ldiCached := by
  intro i e he
  by_cases h : i = 32767
  · subst h
    have : e = ⟨0x2005#16, .legal (.ldi 0#4 5#8)⟩ := by
      have : tableFind ldiCached.icache 32767 = some ⟨0x2005#16, .legal (.ldi 0#4 5#8)⟩ := by decide
      exact (Option.some.inj (he.symm.trans this))
    subst this
    exact ⟨by decide, by decide, by decide⟩
  · have : tableFind ldiCached.icache i = none := by simp [ldiCached, tableFind, h]
    exact nomatch he.symm.trans this

/-- A core with one answer of the host to `write` to come. -/
def withWrite (s : State) (a : WriteAnswer) : State := { s with env := { s.env with writeAnswers := [a] } }

/-- A core with one answer of the host to `read` to come. -/
def withRead (s : State) (a : ReadAnswer) : State := { s with env := { s.env with readAnswers := [a] } }

/-- A HALTED core. -/
def halted (s : State) : State := { s with phase := .halted }

theorem witness_DecodeOfEncodeIsIdentity :
    Instr.wf (.sef 6#3) = true ∧ Instr.wf (.brbs 6#3 0xFF#8) = true ∧ Instr.wf (.stw 14#4 0#4) = true ∧
    Instr.wf (.ldb 15#4 14#4) = true := by decide

theorem witness_LegalWordsEncodeBack : decode 0x1D42#16 = .legal (.stw 4#4 2#4) := by decide

theorem witness_IllegalWordsAreTheTwelveCases : decode 0xE7FF#16 = .illegal := by decide

theorem witness_OpcodeRowsDecideDecoding :
    decode 0x1012#16 = .legal (.add 1#4 2#4) ∧ (rowOf (.add 1#4 2#4)).selects 0x1012#16 = true ∧
    (rowOf (.add 3#4 4#4)).selects 0x1012#16 = true ∧ decode 0xE700#16 = .illegal := by decide

theorem witness_StepRunsTheDecodedInstruction :
    ldiCached.phase = .fetching ∧ ldiCached.atBoundary.stopRequest = false ∧ ldiCached.pc.toNat % 2 = 0 ∧
    CacheCoherent ldiCached ∧ decode (ldiCached.wordAt ldiCached.pc) = .legal (.ldi 0#4 5#8) ∧
    ∃ t, exec (.ldi 0#4 5#8) { ldiCached.atBoundary with cycles := 1, phase := .dispatching } = .next t :=
  ⟨by decide, by decide, by decide, ldiCached_coherent, by decide, _, rfl⟩

/-- The clause of a refusal: TRAP 1 with an answer of one byte to a request of none. -/
theorem witness_StepRunsTheDecodedInstruction_refused :
    let s := withWrite (machine [] 0#8 [(0#16, 1#8), (1#16, 1#8)]) (.success 1)
    s.phase = .fetching ∧ s.atBoundary.stopRequest = false ∧ s.pc.toNat % 2 = 0 ∧ CacheCoherent s ∧
    decode (s.wordAt s.pc) = .legal (.trap 1#8) ∧
    exec (.trap 1#8) { s.atBoundary with cycles := 1, phase := .dispatching } = .refused .hostAnswerOutsideContract :=
  ⟨by decide, by decide, by decide, coherent_of_empty (by decide), by decide, rfl⟩

theorem witness_RetirementAndSingleStep :
    State.reset.phase = .halted ∧ (coreAt 0#16).phase ≠ .halted ∧ (coreAt 0#16).env.mode = .continuous ∧
    ({ coreAt 0#16 with env := { Environment.initial with mode := .singleStep } } : State).env.mode = .singleStep := by decide

theorem witness_IllegalWordStopsTheCore :
    (coreAt 0xFFFE#16).phase = .fetching ∧ (coreAt 0xFFFE#16).atBoundary.stopRequest = false ∧
    (coreAt 0xFFFE#16).pc.toNat % 2 = 0 ∧ CacheCoherent (coreAt 0xFFFE#16) ∧
    decode ((coreAt 0xFFFE#16).wordAt (coreAt 0xFFFE#16).pc) = .illegal :=
  ⟨by decide, by decide, by decide, coherent_of_empty (by decide), by decide⟩

theorem witness_OddProgramCounterStopsTheCore :
    (coreAt 0xFFFF#16).phase = .fetching ∧ (coreAt 0xFFFF#16).atBoundary.stopRequest = false ∧
    (coreAt 0xFFFF#16).pc.toNat % 2 = 1 := by decide

theorem witness_ExternalStopAtTheBoundary :
    let s : State := { coreAt 1#16 with stopRequest := true }
    let p : State := { coreAt 0#16 with pollCount := 1, env := { Environment.initial with pollAnswers := [true] } }
    (s.phase = .fetching ∧ s.atBoundary.stopRequest = true) ∧ p.phase = .fetching ∧ p.atBoundary.stopRequest = true := by
  decide

/-- At a poll with an answer to come, with none, and not at a poll; a tick that quits, one that does not, and none. -/
theorem witness_BoundaryPollsAndTicks :
    let p : State := { coreAt 0#16 with
      pollCount := 1, env := { Environment.initial with pollAnswers := [true, false], ticks := [.pending true] } }
    let q : State := { coreAt 0#16 with pollCount := 2, env := { Environment.initial with ticks := [.pending false] } }
    0 < p.pollCount ∧ p.pollCount = 1 ∧ p.env.pollAnswers = true :: [false] ∧
    p.env.ticks.head?.getD .none = .pending true ∧ 0 < q.pollCount ∧ q.pollCount ≠ 1 ∧ q.env.pollAnswers = [] ∧
    q.env.ticks.head?.getD .none = .pending false ∧ (coreAt 0#16).env.ticks.head?.getD .none = .none := by decide

theorem witness_StoppingInstructionsWriteNothing :
    (coreAt 0#16).phase ≠ .halted ∧ exec .brk (coreAt 0#16) = .next (after (exec .brk (coreAt 0#16))) ∧
    (after (exec .brk (coreAt 0#16))).phase = .halted := ⟨by decide, rfl, by decide⟩

/-- One instruction that stops and one that does not. -/
theorem witness_OnlyTheListedInstructionsStop :
    (coreAt 0#16).phase ≠ .halted ∧ (coreAt 0#16).pc.toNat % 2 = 0 ∧
    exec (.trap 0#8) (coreAt 0#16) = .next (after (exec (.trap 0#8) (coreAt 0#16))) ∧
    exec (.ldw 0#4 2#4) (coreAt 0#16) = .next (after (exec (.ldw 0#4 2#4) (coreAt 0#16))) := ⟨by decide, by decide, rfl, rfl⟩

theorem witness_FlagsAreWrittenAsListed :
    exec (.and 1#4 2#4) (coreAt 0#16) = .next (after (exec (.and 1#4 2#4) (coreAt 0#16))) ∧
    mayWriteFlag (.and 1#4 2#4) flagC = false ∧ mayWriteFlag .nop flagZ = false ∧
    mayWriteFlag (.add 1#4 2#4) flagI = false := ⟨rfl, by decide⟩

theorem witness_DefaultAdvanceIsOneWord :
    assignsPc .nop = false ∧ (coreAt 0xFFFE#16).phase ≠ .halted ∧
    exec .nop (coreAt 0xFFFE#16) = .next (after (exec .nop (coreAt 0xFFFE#16))) ∧
    (after (exec .nop (coreAt 0xFFFE#16))).phase ≠ .halted := ⟨by decide, by decide, rfl, by decide⟩

theorem witness_OnlyTheListedInstructionsWriteMemoryOrSp :
    exec (.ldb 0#4 2#4) (coreAt 0#16) = .next (after (exec (.ldb 0#4 2#4) (coreAt 0#16))) ∧
    mayWriteMemory (.ldb 0#4 2#4) = false ∧ mayWriteSp (.ldb 0#4 2#4) = false ∧ mayWriteMemory (.trap 1#8) = false :=
  ⟨rfl, by decide⟩

theorem witness_InstructionsLeaveTheDispatcherAlone :
    exec .call (coreAt 0#16) = .next (after (exec .call (coreAt 0#16))) := rfl

theorem ldiAtTop_inv : Inv ldiAtTop where
  memory := by decide
  cacheSorted := by decide
  cacheCoherent := coherent_of_empty (by decide)
  srReserved := by decide
  intervalPositive := by decide
  pollPositive := by decide
  pollBounded := by decide
  notDispatching := by decide
  haltWhenHalted := by decide
  haltLegal := fun _ h => nomatch h
  runningLoaded := by decide

theorem witness_EveryStepKeepsTheInvariant : Inv ldiAtTop ∧ step ldiAtTop = .next (after (step ldiAtTop)) :=
  ⟨ldiAtTop_inv, rfl⟩

theorem witness_CoherentFetchDecodesMemory : CacheCoherent ldiCached ∧ (0xFFFE#16 : Addr).toNat % 2 = 0 :=
  ⟨ldiCached_coherent, by decide⟩

/-- The same core with the word at `pc` cached and with an empty cache. -/
theorem witness_DecodeCacheIsInvisible :
    SameButCoherentCache ldiCached { ldiCached with icache := [] } ∧ ldiCached.icache ≠ [] ∧
    step ldiCached = .next (after (step ldiCached)) :=
  ⟨⟨rfl, ldiCached_coherent, coherent_of_empty rfl⟩, by decide, rfl⟩

theorem witness_StoresAreSeenByTheNextFetch :
    CacheCoherent ldiCached ∧
    (∃ t, ldiCached.memWrite 0xFFFE#16 .two 0x2007#16 = some t) ∧ (0xFFFE#16 : Addr).toNat % 2 = 0 :=
  ⟨ldiCached_coherent, ⟨_, rfl⟩, by decide⟩

theorem witness_MemoryReadRule :
    (coreAt 0#16).memRead 0xFFFF#16 .two = none ∧ (∃ v, (coreAt 0#16).memRead 0xFFF8#16 .eight = some v) ∧ 7 < Width.eight.bytes :=
  ⟨by decide, ⟨_, rfl⟩, by decide⟩

theorem witness_MemoryWriteRule :
    (coreAt 0#16).memWrite 0xFFFF#16 .two 0#16 = none ∧
    (∃ t, (coreAt 0#16).memWrite 0xFFF8#16 .eight 1#64 = some t) ∧ 7 < Width.eight.bytes :=
  ⟨by decide, ⟨_, rfl⟩, by decide⟩

theorem witness_CompareThenBranchDecidesOrder :
    exec (.cp 1#4 2#4) (coreAt 0#16) = .next (after (exec (.cp 1#4 2#4) (coreAt 0#16))) := rfl

/-- 12FF + 0001: a carry between the bytes. -/
theorem witness_AddThenAdcAddsSixteenBits :
    let s := machine [(0#4, 0xFF#8), (1#4, 0x12#8), (2#4, 1#8)] 0#8 []
    let t := after (exec (.add 0#4 2#4) s)
    (1#4 : Reg) ≠ 0#4 ∧ (3#4 : Reg) ≠ 0#4 ∧ exec (.add 0#4 2#4) s = .next t ∧
    exec (.adc 1#4 3#4) t = .next (after (exec (.adc 1#4 3#4) t)) := ⟨by decide, by decide, rfl, rfl⟩

theorem witness_FlagInstructionsWriteOneFlag : (6#3 : BitNo) ≠ 7#3 := by decide

theorem witness_RelativeTransfersReachTheirTarget : (0#3 : BitNo) ≠ 7#3 := by decide

theorem witness_JumpGoesToItsSecondWord : (coreAt 0xFFFE#16).pc.toNat % 2 = 0 := by decide

theorem witness_CallPushesTheReturnAddress : (coreAt 0xFFFC#16).pc.toNat % 2 = 0 := by decide

theorem witness_CallThenReturnComesBack :
    let s := { machine [] 0#8 [(0x12#16, 0x40#8)] with pc := 0x10#16, sp := 1#16 }
    let t := after (exec .call s)
    let u := { t with pc := 0x50#16 }
    s.pc.toNat % 2 = 0 ∧ exec .call s = .next t ∧ u.sp = t.sp ∧
    (∀ a, a = t.sp ∨ a = t.sp + 1#16 → u.byteAt a = t.byteAt a) ∧ exec .ret u = .next (after (exec .ret u)) :=
  ⟨by decide, rfl, rfl, fun _ _ => rfl, rfl⟩

theorem witness_SkipsPassOneWholeInstruction :
    (coreAt 0xFFFE#16).pc.toNat % 2 = 0 ∧ CacheCoherent (coreAt 0xFFFE#16) :=
  ⟨by decide, coherent_of_empty (by decide)⟩

theorem witness_SecondWordsAtAnOddAddressStop :
    let s := { machine [(1#4, 0x80#8)] 0#8 [] with pc := 0xFFFF#16 }
    s.pc.toNat % 2 = 1 ∧ s.getReg 2#4 = s.getReg 3#4 ∧ s.getReg 1#4 ≠ s.getReg 2#4 ∧
    (s.getReg 1#4).getLsbD (0#3 : BitNo).toNat = false ∧ (s.getReg 1#4).getLsbD (7#3 : BitNo).toNat = true := by decide

theorem witness_ByteLoadsAndStores : pairNumberOk 14#4 = true := by decide

/-- An even and an odd address at the top of memory. -/
theorem witness_WordLoadsAndStores :
    let s := machine [(2#4, 0xFE#8), (3#4, 0xFF#8), (4#4, 0xFF#8), (5#4, 0xFF#8)] 0#8 []
    pairNumberOk 14#4 = true ∧ pairNumberOk 2#4 = true ∧ (s.getPair 2#4).toNat % 2 = 0 ∧ pairNumberOk 4#4 = true ∧
    (s.getPair 4#4).toNat % 2 = 1 := by decide

theorem witness_PopGivesBackWhatWasPushed :
    let s := machine [(5#4, 0xAB#8)] 0#8 []
    let t := after (exec (.push 5#4) s)
    exec (.push 5#4) s = .next t ∧ exec (.pop 9#4) t = .next (after (exec (.pop 9#4) t)) := ⟨rfl, rfl⟩

theorem witness_ExitTrapAndBreakStop : 3 ≤ (3#8 : Byte).toNat ∧ 3 ≤ (255#8 : Byte).toNat := by decide

/-- A buffer of two bytes across the wrap: all of it written, and a failure. -/
theorem witness_TrapWriteHandsTheBufferToTheHost :
    let s := machine [(2#4, 0xFF#8), (3#4, 0xFF#8), (4#4, 2#8)] 0#8 []
    (withWrite s (.success 2)).env.writeAnswers = .success 2 :: [] ∧ WriteAnswer.allowed (.success 2) (s.getPair 4#4).toNat = true ∧
    (withWrite s (.failure 9#8)).env.writeAnswers = .failure 9#8 :: [] ∧
    WriteAnswer.allowed (.failure 9#8) (s.getPair 4#4).toNat = true := by decide

/-- As many bytes as were asked for, across the wrap, and a failure. -/
theorem witness_TrapReadStoresTheHostsBytes :
    let s := machine [(2#4, 0xFF#8), (3#4, 0xFF#8), (4#4, 2#8)] 0#8 []
    (withRead s (.success [1#8, 2#8])).env.readAnswers = .success [1#8, 2#8] :: [] ∧
    ReadAnswer.allowed (.success [1#8, 2#8]) (s.getPair 4#4).toNat = true ∧
    (withRead s (.failure 9#8)).env.readAnswers = .failure 9#8 :: [] ∧
    ReadAnswer.allowed (.failure 9#8) (s.getPair 4#4).toNat = true := by decide

/-- No answer given, and answers of one byte more than was asked for. -/
theorem witness_HostAnswersStayWithinTheContract :
    let s := machine [(4#4, 2#8)] 0#8 []
    s.env.writeAnswers = [] ∧ s.env.readAnswers = [] ∧
    (withWrite s (.success 3)).env.writeAnswers = .success 3 :: [] ∧ ((withWrite s (.success 3)).getPair 4#4).toNat < 3 ∧
    (withRead s (.success [1#8, 2#8, 3#8])).env.readAnswers = .success [1#8, 2#8, 3#8] :: [] ∧
    ((withRead s (.success [1#8, 2#8, 3#8])).getPair 4#4).toNat < [1#8, 2#8, 3#8].length := by decide

theorem witness_StoredRegistersReadBack :
    15 ≤ 18 ∧ [0xA5#8].length = (if 15 ≤ 16 then 1 else 2) ∧ 16 ≤ 18 ∧ [0xFF#8].length = (if 16 ≤ 16 then 1 else 2) ∧
    17 ≤ 18 ∧ 18 ≤ 18 ∧ [0x21#8, 0#8].length = (if 17 ≤ 16 then 1 else 2) ∧ [0x21#8, 0#8].length = (if 18 ≤ 16 then 1 else 2) ∧
    State.reset.phase = .halted := by
  decide

theorem witness_HarnessRegisterErrors :
    17 ≤ 18 ∧ [0xFE#8].length ≠ (if 17 ≤ 16 then 1 else 2) ∧ 16 ≤ 18 ∧ [1#8, 2#8].length ≠ (if 16 ≤ 16 then 1 else 2) ∧
    18 < 19 ∧ State.reset.phase = .halted := by decide

theorem witness_HarnessReadsReturnTheBytes : State.reset.phase = .halted ∧ 1 < 2 := by decide

theorem witness_BulkWritesReadBack :
    State.reset.phase = .halted ∧ (List.replicate 65536 (0#8 : Byte)).length ≤ 65536 := ⟨by decide, Nat.le_of_eq List.length_replicate⟩

theorem witness_RunEntryResumes :
    (halted (coreAt 0#16)).phase = .halted ∧ (halted (coreAt 0#16)).loaded = true ∧ State.reset.phase = .halted ∧
    State.reset.loaded = false := by decide

theorem witness_ResetCallCreatesTheContext : (halted ldiCached).phase = .halted := rfl

/-- Two segments of which the second covers a byte of the first; the byte at 7 lies in none. -/
theorem witness_ResetWithImageLoadsTheSegments :
    let segments : List (Nat × List Byte) := [(0xFFFF, [1#8, 2#8]), (0, [3#8])]
    State.reset.phase = .halted ∧ 1 ≠ 0 ∧
    (∀ seg ∈ segments, ∀ j, j < seg.2.length → mask (seg.1 + j) ≠ 7#16) ∧
    segments = [] ++ (0xFFFF, [1#8, 2#8]) :: [(0, [3#8])] ∧ 0 < [1#8, 2#8].length ∧
    (∀ i, i < [1#8, 2#8].length → 0 < i → mask (0xFFFF + i) ≠ mask (0xFFFF + 0)) ∧
    (∀ later ∈ [((0 : Nat), [(3#8 : Byte)])], ∀ i, i < later.2.length → mask (later.1 + i) ≠ mask (0xFFFF + 0)) := by decide

theorem witness_HarnessActsOnlyWhileHalted :
    (coreAt 0#16).phase ≠ .halted ∧ State.reset.phase = .halted ∧ State.reset.env.commands = [] ∧
    ({ State.reset with env := { Environment.initial with commands := [.stopReason] } } : State).env.commands = .stopReason :: [] := by
  decide

/-- LDI placed at the top of memory in a core with a coherent cache. -/
theorem witness_PlacedInstructionRunsNext :
    let p := ldiCached.withFetchWord 16 0x2005
    let f : State := { p.atBoundary with cycles := 1, phase := .dispatching }
    ldiCached.pc.toNat % 2 = 0 ∧ decodeTableWord 16 0x2005 = some (.ldi 0#4 5#8) ∧ CacheCoherent ldiCached ∧
    exec (.ldi 0#4 5#8) f = .next (after (exec (.ldi 0#4 5#8) f)) :=
  ⟨by decide, by decide, ldiCached_coherent, rfl⟩

/-- The clause of a refusal: TRAP 1 placed, with an answer of one byte to a request of none. -/
theorem witness_PlacedInstructionRunsNext_refused :
    let p := (withWrite (coreAt 0#16) (.success 1)).withFetchWord 16 0x0101
    decodeTableWord 16 0x0101 = some (.trap 1#8) ∧
    exec (.trap 1#8) { p.atBoundary with cycles := 1, phase := .dispatching } = .refused .hostAnswerOutsideContract :=
  ⟨by decide, rfl⟩

end Sys2Proof.Tests
end

namespace Sys2Proof.Proofs

open Sys2Proof Sys2Proof.Machine Sys2Proof.Statements Sys2Proof.Laws

/-! ## What can happen to memory and the decode cache -/

/-- One change of memory and cache: none of either, a fetch, a stored byte, or both emptied by a reset. -/
inductive CodeStep : State → State → Prop
  | frame {s t : State} (hmem : t.mem = s.mem) (hcache : t.icache = s.icache) : CodeStep s t
  | fetch {s t : State} {a : Addr} {d : Decoded} (h : s.fetch a = some (d, t)) : CodeStep s t
  | store (s : State) (a : Addr) (v : Byte) : CodeStep s (s.storeByte a v)
  | clear {s t : State} (hmem : t.mem = []) (hcache : t.icache = []) : CodeStep s t

/-- Memory and cache of `t` come from those of `s` by such changes. -/
abbrev CodeReach : State → State → Prop := Relation.ReflTransGen CodeStep

/-- Nothing but memory and cache matters to `CodeReach`. -/
theorem CodeReach.frame {s t u : State} (h : CodeReach s t) (hmem : u.mem = t.mem) (hcache : u.icache = t.icache) :
    CodeReach s u :=
  h.tail (.frame hmem hcache)

theorem CodeReach.of_same {s t : State} (hmem : t.mem = s.mem) (hcache : t.icache = s.icache) : CodeReach s t :=
  .single (.frame hmem hcache)

theorem codeReach_writeBytes (vs : List Byte) : ∀ (s : State) (a : Addr), CodeReach s (s.writeBytes a vs) := by
  induction vs with
  | nil => exact fun _ _ => .refl
  | cons v vs ih => exact fun s a => .head (.store s a v) (ih _ _)

theorem codeReach_writeLE (n : Nat) : ∀ (s : State) (a : Addr) (v : BitVec (8 * n)), CodeReach s (s.writeLE a n v) := by
  induction n with
  | zero => exact fun _ _ _ => .refl
  | succ n ih => exact fun s a v => .head (.store s a _) (ih _ _ _)

theorem codeReach_loadSegments (segs : List (Nat × List Byte)) : ∀ s : State, CodeReach s (s.loadSegments segs) := by
  induction segs with
  | nil => exact fun _ => .refl
  | cons seg segs ih => exact fun s => (codeReach_writeBytes _ s _).trans (ih _)

/-- A property of memory and cache that each single change keeps is kept along `CodeReach`. -/
theorem CodeReach.keeps {P : State → Prop} (hstep : ∀ s t, CodeStep s t → P s → P t) {s t : State} (h : CodeReach s t)
    (hs : P s) : P t := by
  induction h with
  | refl => exact hs
  | tail _ h ih => exact hstep _ _ h ih

/-! ## Coherence of the decode cache (40_pipeline R117) -/

theorem slotOf_eq (a : Addr) : slotOf a = a.toNat / 2 := rfl

theorem toNat_slotAddress {i : Nat} (h : i < 32768) : (slotAddress i).toNat = 2 * i := by
  simp only [slotAddress, BitVec.toNat_ofNat]
  omega

/-- An even address is that of its slot. -/
theorem slotAddress_slotOf {a : Addr} (h : a.toNat % 2 = 0) : slotAddress (slotOf a) = a := by
  apply BitVec.eq_of_toNat_eq
  rw [toNat_slotAddress (by have := a.isLt; rw [slotOf_eq]; omega), slotOf_eq]
  omega

theorem wordAt_congr {s t : State} (h : t.mem = s.mem) (a : Addr) : t.wordAt a = s.wordAt a := by
  simp only [State.wordAt, State.byteAt, h]

/-- A byte stored outside a slot leaves the slot's word. -/
theorem wordAt_storeByte {s : State} {a : Addr} {v : Byte} {i : Nat} (hi : i < 32768) (hne : i ≠ slotOf a) :
    (s.storeByte a v).wordAt (slotAddress i) = s.wordAt (slotAddress i) := by
  rw [slotOf_eq] at hne
  have hlow : slotAddress i ≠ a := by
    rintro rfl
    rw [toNat_slotAddress hi] at hne
    omega
  have hhigh : slotAddress i + 1#16 ≠ a := by
    rintro rfl
    rw [BitVec.toNat_add, toNat_slotAddress hi] at hne
    simp only [BitVec.toNat_ofNat] at hne
    omega
  simp only [State.wordAt, byteAt_storeByte, if_neg hlow, if_neg hhigh]

theorem coherent_of_same {s t : State} (hmem : t.mem = s.mem) (hcache : t.icache = s.icache) (h : CacheCoherent s) :
    CacheCoherent t := by
  intro i e he
  rw [wordAt_congr hmem]
  exact h i e (hcache ▸ he)

theorem coherent_of_empty {s : State} (h : s.icache = []) : CacheCoherent s := by
  intro i e he
  rw [h] at he
  exact nomatch he

/-- Storing a byte empties the one slot whose word it changes. -/
theorem coherent_storeByte {s : State} (h : CacheCoherent s) (a : Addr) (v : Byte) : CacheCoherent (s.storeByte a v) := by
  intro i e he
  rw [storeByte_icache, tableFind_erase] at he
  split at he
  · cases he
  · obtain ⟨hi, hraw, hdecoded⟩ := h i e he
    exact ⟨hi, hraw.trans (wordAt_storeByte hi ‹_›).symm, hdecoded⟩

/-- With a coherent cache a fetch gives the decode of the word in memory and keeps the cache coherent. -/
theorem fetch_coherent {s t : State} {a : Addr} {d : Decoded} (h : CacheCoherent s) (hf : s.fetch a = some (d, t)) :
    d = decode (s.wordAt a) ∧ CacheCoherent t := by
  obtain ⟨heven, ⟨e, hfind, rfl, rfl⟩ | ⟨hfind, rfl, rfl⟩⟩ := fetch_cases hf
  · obtain ⟨-, hraw, hdecoded⟩ := h _ e hfind
    rw [slotAddress_slotOf heven] at hraw
    exact ⟨by rw [hdecoded, hraw], h⟩
  · refine ⟨rfl, fun i e he => ?_⟩
    rw [tableFind_insert] at he
    split at he
    · obtain rfl := Option.some.inj he
      subst i
      refine ⟨by have := a.isLt; rw [slotOf_eq]; omega, ?_, rfl⟩
      rw [slotAddress_slotOf heven]
      rfl
    · exact h i e he

theorem CodeStep.coherent (s t : State) (h : CodeStep s t) (hs : CacheCoherent s) : CacheCoherent t := by
  cases h with
  | frame hmem hcache => exact coherent_of_same hmem hcache hs
  | fetch h => exact (fetch_coherent hs h).2
  | store => exact coherent_storeByte hs _ _
  | clear hmem hcache => exact coherent_of_empty hcache

/-! ## The canonical form of memory and cache (log 10) -/

/-- Both tables of the state are in their canonical form. -/
def Canonical (s : State) : Prop := s.mem.wf ∧ TableSorted s.icache

theorem CodeStep.canonical (s t : State) (h : CodeStep s t) (hs : Canonical s) : Canonical t := by
  obtain ⟨hwf, hsorted⟩ := hs
  cases h with
  | frame hmem hcache => exact ⟨hmem ▸ hwf, hcache ▸ hsorted⟩
  | fetch h =>
    obtain ⟨-, ⟨e, -, -, rfl⟩ | ⟨-, -, rfl⟩⟩ := fetch_cases h
    · exact ⟨hwf, hsorted⟩
    · exact ⟨hwf, tableSorted_insert hsorted _ _⟩
  | store => exact ⟨storeByte_wf hwf _ _, tableSorted_erase hsorted _⟩
  | clear hmem hcache => exact ⟨by simp [hmem, Memory.wf], by simp [hcache]⟩

theorem CodeReach.coherent {s t : State} (h : CodeReach s t) (hs : CacheCoherent s) : CacheCoherent t :=
  h.keeps CodeStep.coherent hs

theorem CodeReach.canonical {s t : State} (h : CodeReach s t) (hs : Canonical s) : Canonical t :=
  h.keeps CodeStep.canonical hs

/-! ## Everything an instruction can do -/

/-- What no instruction reaches, whether it retires or stops the core (10_state R33, R36 to R38): the counters, the stop
request, `loaded`, and of the environment all but the answers of `write` and `read` and the record of host calls. -/
structure SameLoop (s t : State) : Prop where
  cycles : t.cycles = s.cycles
  pollCount : t.pollCount = s.pollCount
  stopRequest : t.stopRequest = s.stopRequest
  loaded : t.loaded = s.loaded
  env : ∃ writes reads calls, t.env = { s.env with writeAnswers := writes, readAnswers := reads, hostCalls := calls }

/-- `t` is what `i` leaves in `s` where it does not stop the core. -/
structure Retires (i : Instr) (s t : State) : Prop where
  loop : SameLoop s t
  phase : t.phase = s.phase
  halt : t.halt = s.halt
  flags : ∀ f, mayWriteFlag i f = false → getFlag t.sr f = getFlag s.sr f
  stack : mayWriteSp i = false → t.sp = s.sp
  memory : mayWriteMemory i = false → t.mem = s.mem
  code : CodeReach s t

theorem next_inj {s t : State} (h : (.next s : Host.Outcome State Fault Refusal) = .next t) : t = s :=
  (Host.Outcome.next.inj h).symm

/-! ### The shapes of a retiring instruction -/

/-- An instruction that writes registers alone. -/
theorem retires_of_registers {i : Instr} {s t : State}
    (hrest : t = { s with regs := t.regs, sr := t.sr, sp := t.sp, pc := t.pc })
    (hflags : ∀ f, mayWriteFlag i f = false → getFlag t.sr f = getFlag s.sr f)
    (hstack : mayWriteSp i = false → t.sp = s.sp) : Retires i s t := by
  rw [hrest]
  exact ⟨⟨rfl, rfl, rfl, rfl, _, _, _, rfl⟩, rfl, rfl, hflags, hstack, fun _ => rfl, .of_same rfl rfl⟩

/-- An instruction that writes no flag and stores bytes, in a state `u` from which it goes on to write registers. -/
theorem retires_of_stores {i : Instr} {s u t : State} (hmay : mayWriteMemory i = true) (hsame : SameButMemory s u)
    (hcode : CodeReach s u) (hrest : t = { u with regs := t.regs, sp := t.sp, pc := t.pc })
    (hstack : mayWriteSp i = false → t.sp = s.sp) : Retires i s t := by
  rw [hrest]
  refine ⟨⟨hsame.cycles, hsame.pollCount, hsame.stopRequest, hsame.loaded, _, _, _, hsame.env⟩, hsame.phase, hsame.halt,
    fun f _ => congrArg (getFlag · f) hsame.sr, hstack, fun h => ?_, hcode.frame rfl rfl⟩
  rw [hmay] at h
  cases h

/-! ### The flags each family keeps (10_state R26) -/

theorem getFlag_addFlags_kept {a b sr : Byte} {cin : Bool} {f : BitNo} (h : (f != flagI && f != srReserved) = false) :
    getFlag (addFlags a b cin sr) f = getFlag sr f := by
  have hf : f = 6#3 ∨ f = 7#3 := by revert h; revert f; decide
  rw [getFlag_addFlags]
  rcases hf with rfl | rfl <;> rfl

theorem getFlag_subFlags_kept {a b sr : Byte} {bin : Bool} {f : BitNo} (h : (f != flagI && f != srReserved) = false) :
    getFlag (subFlags a b bin sr) f = getFlag sr f := by
  have hf : f = 6#3 ∨ f = 7#3 := by revert h; revert f; decide
  rw [getFlag_subFlags]
  rcases hf with rfl | rfl <;> rfl

theorem getFlag_logicFlags_kept {r sr : Byte} {f : BitNo}
    (h : (f == flagZ || f == flagN || f == flagV || f == flagS) = false) :
    getFlag (logicFlags r sr) f = getFlag sr f := by
  simp only [Bool.or_eq_false_iff, beq_eq_false_iff_ne] at h
  obtain ⟨⟨⟨hZ, hN⟩, hV⟩, hS⟩ := h
  rw [getFlag_logicFlags, if_neg hS, if_neg hV, if_neg hN, if_neg hZ]

theorem getFlag_shiftFlags_kept {op : ShiftOp} {a sr : Byte} {f : BitNo}
    (h : (f == flagZ || f == flagC || f == flagN || f == flagV || f == flagS) = false) :
    getFlag (shiftFlags op a sr) f = getFlag sr f := by
  simp only [Bool.or_eq_false_iff, beq_eq_false_iff_ne] at h
  obtain ⟨⟨⟨⟨hZ, hC⟩, hN⟩, hV⟩, hS⟩ := h
  rw [getFlag_shiftFlags, if_neg hS, if_neg hV, if_neg hN, if_neg hZ, if_neg hC]

theorem getFlag_putFlag_kept {sr : Byte} {b f : BitNo} {v : Bool} (h : (f == b) = false) :
    getFlag (putFlag sr b v) f = getFlag sr f := by
  rw [getFlag_putFlag, if_neg (by simpa using h)]

/-! ### Branches, skips and TRAP -/

theorem branch_eq (s : State) (taken : Bool) (k : Byte) :
    s.branch taken k = s.setPc (if taken then s.relativeTarget (displacement8 k) else s.nextPc) := by
  cases taken <;> rfl

/-- Everything `Skip` can do (43_control R191). -/
theorem skip_cases (s : State) (cond : Bool) :
    (cond = false ∧ s.skip cond = s.advance) ∨
    (cond = true ∧ s.fetch s.nextPc = none ∧ s.skip cond = s.stop (.busError s.nextPc)) ∨
    (cond = true ∧ ∃ d u, s.fetch s.nextPc = some (d, u) ∧ s.skip cond = u.setPc (s.skipTarget d.width)) := by
  cases cond with
  | false => exact .inl ⟨rfl, rfl⟩
  | true =>
    right
    cases hf : s.fetch s.nextPc with
    | none => exact .inl ⟨rfl, rfl, by simp [State.skip, hf]⟩
    | some p => exact .inr ⟨rfl, p.1, p.2, rfl, by simp [State.skip, hf]⟩

/-- A skip stops the core or writes `pc` alone, and may fill a cache slot. -/
theorem skip_stops_or_retires {i : Instr} {s t : State} {cond : Bool} (h : t = s.skip cond) :
    (∃ c, t = s.stop c) ∨ Retires i s t := by
  subst h
  obtain ⟨-, h⟩ | ⟨-, -, h⟩ | ⟨-, d, u, hf, h⟩ := skip_cases s cond <;> rw [h]
  · exact .inr (retires_of_registers rfl (fun _ _ => rfl) fun _ => rfl)
  · exact .inl ⟨_, rfl⟩
  · obtain ⟨hsame, hmem⟩ := fetch_same hf
    exact .inr ⟨⟨hsame.cycles, hsame.pollCount, hsame.stopRequest, hsame.loaded, _, _, _, hsame.env⟩, hsame.phase,
      hsame.halt, fun f _ => congrArg (getFlag · f) hsame.sr, fun _ => hsame.sp, fun _ => hmem,
      (Relation.ReflTransGen.single (CodeStep.fetch hf)).tail (.frame rfl rfl)⟩

/-- `SysWrite` hands the buffer to the host and writes its answer to the registers (45_system R224). -/
theorem sysWrite_cases {s t : State} (h : sysWrite s = .next t) :
    ∃ fd data value errno, t = (s.callWrite fd data).trapReturn value errno := by
  unfold sysWrite at h
  dsimp only at h
  split at h
  · split at h
    · exact ⟨_, _, _, _, next_inj h⟩
    · cases h
  · exact ⟨_, _, _, _, next_inj h⟩

/-- `SysRead` stores the bytes the host answers, none where it fails, and writes the registers (45_system R225). -/
theorem sysRead_cases {s t : State} (h : sysRead s = .next t) :
    ∃ fd len a data value errno, t = ((s.callRead fd len).writeBytes a data).trapReturn value errno := by
  unfold sysRead at h
  dsimp only at h
  split at h
  · split at h
    · exact ⟨_, _, _, _, _, _, next_inj h⟩
    · cases h
  · exact ⟨_, _, 0#16, [], _, _, next_inj h⟩

theorem retires_sysWrite {k : Byte} {s t : State} (h : sysWrite s = .next t) : Retires (.trap k) s t := by
  obtain ⟨fd, data, value, errno, rfl⟩ := sysWrite_cases h
  exact ⟨⟨rfl, rfl, rfl, rfl, _, _, _, rfl⟩, rfl, rfl, fun _ _ => rfl, fun _ => rfl, fun _ => rfl, .of_same rfl rfl⟩

theorem retires_sysRead {s t : State} (h : sysRead s = .next t) : Retires (.trap 2#8) s t := by
  obtain ⟨fd, len, a, data, value, errno, rfl⟩ := sysRead_cases h
  have hcall : CodeReach s (s.callRead fd len) := .of_same rfl rfl
  have hsame := writeBytes_same data (s.callRead fd len) a
  exact ⟨⟨hsame.cycles, hsame.pollCount, hsame.stopRequest, hsame.loaded, _, _, _, hsame.env⟩, hsame.phase, hsame.halt,
    fun f _ => congrArg (getFlag · f) hsame.sr, fun _ => hsame.sp, nofun,
    CodeReach.frame (hcall.trans (codeReach_writeBytes data _ a)) rfl rfl⟩

theorem trap_stops_or_retires {k : Byte} {s t : State} (h : execTrap k s = .next t) :
    (∃ c, t = s.stop c) ∨ Retires (.trap k) s t := by
  obtain ⟨-, e⟩ | ⟨-, e⟩ | ⟨rfl, e⟩ | ⟨-, e⟩ := execTrap_cases s k <;> rw [e] at h
  · exact .inl ⟨_, next_inj h⟩
  · exact .inr (retires_sysWrite h)
  · exact .inr (retires_sysRead h)
  · exact .inl ⟨_, next_inj h⟩

/-- An instruction that answers a next state took a stop, or left what `Retires` says. -/
theorem exec_stops_or_retires {i : Instr} {s t : State} (h : exec i s = .next t) :
    (∃ c, t = s.stop c) ∨ Retires i s t := by
  cases i with
  | brk => exact .inl ⟨_, next_inj h⟩
  | trap k => exact trap_stops_or_retires h
  | sbrc b r | sbrs b r | cpse d r => exact skip_stops_or_retires (next_inj h)
  | nop | mov d r | ldi d k | ldb d r | rjmp k =>
    obtain rfl := next_inj h
    exact .inr (retires_of_registers rfl (fun _ _ => rfl) fun _ => rfl)
  | pop d | ret =>
    obtain rfl := next_inj h
    exact .inr (retires_of_registers rfl (fun _ _ => rfl) nofun)
  | brbc b k | brbs b k =>
    obtain rfl := next_inj h
    rw [branch_eq]
    exact .inr (retires_of_registers rfl (fun _ _ => rfl) fun _ => rfl)
  | add d r | adc d r | addi d k =>
    obtain rfl := next_inj h
    exact .inr (retires_of_registers rfl (fun _ => getFlag_addFlags_kept) fun _ => rfl)
  | sub d r | sbc d r | subi d k | cp d r | cpi d k =>
    obtain rfl := next_inj h
    exact .inr (retires_of_registers rfl (fun _ => getFlag_subFlags_kept) fun _ => rfl)
  | and d r | or d r | xor d r | andi d k | ori d k =>
    obtain rfl := next_inj h
    exact .inr (retires_of_registers rfl (fun _ => getFlag_logicFlags_kept) fun _ => rfl)
  | lsl d | lsr d | asr d | rol d | ror d =>
    obtain rfl := next_inj h
    exact .inr (retires_of_registers rfl (fun _ => getFlag_shiftFlags_kept) fun _ => rfl)
  | sef b | clf b =>
    obtain rfl := next_inj h
    exact .inr (retires_of_registers rfl (fun _ => getFlag_putFlag_kept) fun _ => rfl)
  | stb d r =>
    obtain rfl := next_inj h
    exact .inr (retires_of_stores rfl (storeByte_same s _ _) (.single (.store s _ _)) rfl fun _ => rfl)
  | push r =>
    obtain rfl := next_inj h
    exact .inr (retires_of_stores rfl (storeByte_same s _ _) (.single (.store s _ _)) rfl nofun)
  | jmp =>
    change execJmp s = _ at h
    unfold execJmp at h
    split at h
    · exact .inl ⟨_, next_inj h⟩
    · obtain rfl := next_inj h
      exact .inr (retires_of_registers rfl (fun _ _ => rfl) fun _ => rfl)
  | call =>
    change execCall s = _ at h
    unfold execCall at h
    split at h
    · exact .inl ⟨_, next_inj h⟩
    · obtain rfl := next_inj h
      exact .inr (retires_of_stores (u := (s.storeByte (s.sp - 1#16) _).storeByte (s.sp - 2#16) _) rfl
        ((storeByte_same s _ _).then (storeByte_same _ _ _)) ((Relation.ReflTransGen.single (.store s _ _)).tail (.store _ _ _))
        rfl nofun)
  | ldw d r =>
    change execLdw d r s = _ at h
    unfold execLdw at h
    split at h
    · exact .inl ⟨_, next_inj h⟩
    · obtain rfl := next_inj h
      exact .inr (retires_of_registers rfl (fun _ _ => rfl) fun _ => rfl)
  | stw d r =>
    change execStw d r s = _ at h
    unfold execStw at h
    split at h
    · exact .inl ⟨_, next_inj h⟩
    · rename_i hw
      obtain ⟨-, rfl⟩ := memWrite_eq_some.1 hw
      obtain rfl := next_inj h
      exact .inr (retires_of_stores rfl (writeLE_same _ _ _ _) (codeReach_writeLE _ _ _ _) rfl
        fun _ => (writeLE_same _ _ _ _).sp)

/-! ## What every instruction leaves alone -/

/-- Settles O14: a stop writes no flag, and what retires keeps to its row of the table. -/
theorem flagsAreWrittenAsListed : Obligations.FlagsAreWrittenAsListed := by
  intro i s t f h hf
  obtain ⟨c, rfl⟩ | hr := exec_stops_or_retires h
  · rfl
  · exact hr.flags f hf

/-- Settles O16: a stop writes neither, and what retires keeps to the lists. -/
theorem onlyTheListedInstructionsWriteMemoryOrSp : Obligations.OnlyTheListedInstructionsWriteMemoryOrSp := by
  intro i s t h
  obtain ⟨c, rfl⟩ | hr := exec_stops_or_retires h
  · exact ⟨fun _ _ => rfl, fun _ => rfl⟩
  · exact ⟨fun hm a => congrArg (Memory.read · a) (hr.memory hm), hr.stack⟩

theorem stop_sameLoop (s : State) (c : StopCondition) : SameLoop s (s.stop c) := ⟨rfl, rfl, rfl, rfl, _, _, _, rfl⟩

/-- Stopping or retiring, an instruction leaves the dispatcher's fields. -/
theorem exec_sameLoop {i : Instr} {s t : State} (h : exec i s = .next t) : SameLoop s t := by
  obtain ⟨c, rfl⟩ | hr := exec_stops_or_retires h
  · exact stop_sameLoop s c
  · exact hr.loop

/-- Settles O17: the phase is that of `s` where the instruction retires and HALTED where it stops the core. -/
theorem instructionsLeaveTheDispatcherAlone : Obligations.InstructionsLeaveTheDispatcherAlone := by
  intro i s t h
  obtain ⟨hcycles, hpoll, hstop, hloaded, writes, reads, calls, henv⟩ := exec_sameLoop h
  have hphase : t.phase = s.phase ∨ t.phase = .halted := by
    obtain ⟨c, rfl⟩ | hr := exec_stops_or_retires h
    · exact .inr rfl
    · exact .inl hr.phase
  rw [henv]
  exact ⟨hcycles, hpoll, hstop, hloaded, rfl, rfl, rfl, rfl, rfl, rfl, rfl, hphase⟩

/-- Settles O47: POP reads the byte at the address PUSH stored at, which is the `sp` PUSH left. -/
theorem popGivesBackWhatWasPushed : Obligations.PopGivesBackWhatWasPushed := by
  intro s t u r d hpush hpop
  obtain rfl := next_inj hpush
  obtain rfl := next_inj hpop
  refine ⟨?_, ?_, fun j hj => ?_⟩
  · simp [byteAt_storeByte]
  · simp [State.pushAddress]
  · simp [getReg_setReg_other _ hj]

/-! ## Reset (70_reset R280, R281) -/

theorem loadSegments_same (segs : List (Nat × List Byte)) : ∀ s : State, SameButMemory s (s.loadSegments segs) := by
  induction segs with
  | nil => exact fun _ => SameButMemory.rfl'
  | cons seg segs ih => exact fun s => (writeBytes_same _ s _).then (ih _)

theorem getReg_created (env : Environment) (i : Reg) : (State.created env).getReg i = 0#8 := by
  simp [State.getReg, State.created]

/-- A call of a HALTED core is not refused as made during a run (80_host R310). -/
theorem harnessCall_reset {s : State} (hs : s.phase = .halted) : harnessCall .reset s = .next (State.created s.env) :=
  if_neg (not_not.2 hs)

theorem harnessCall_resetWithImage {s : State} (hs : s.phase = .halted) (segs : List (Nat × List Byte)) (entry : Nat) :
    harnessCall (.resetWithImage segs entry 0) s = .next (s.resetWithImage segs entry) :=
  if_neg (not_not.2 hs)

/-- Settles O57: a created context is empty in every field, and loading an image into one keeps the environment. -/
theorem resetCallCreatesTheContext : Obligations.ResetCallCreatesTheContext := by
  intro s hs
  refine ⟨⟨State.created s.env, harnessCall_reset hs, getReg_created s.env, rfl, rfl, rfl, fun _ => rfl, fun _ => rfl, rfl,
    rfl, rfl, rfl, rfl, rfl, rfl, fun _ => rfl⟩, fun segs entry => ?_⟩
  exact ⟨_, harnessCall_resetWithImage hs segs entry, (loadSegments_same segs (State.created s.env)).env⟩

/-! ## What the decoder yields names no reserved flag (30_encoding R86, R88, R93) -/

theorem legalIf_eq_legal {ok : Bool} {i j : Instr} (h : legalIf ok i = .legal j) : ok = true ∧ i = j := by
  unfold legalIf at h
  split at h
  · exact ⟨‹_›, Decoded.legal.inj h⟩
  · cases h

theorem decodeFormatZ_wf {w : Word16} {i : Instr} (h : decodeFormatZ w = .legal i) : i.wf = true := by
  unfold decodeFormatZ at h
  split at h <;> cases h <;> rfl

theorem decodeStack_wf {w : Word16} {i : Instr} (h : decodeStack w = .legal i) : i.wf = true := by
  unfold decodeStack at h
  split at h <;> cases h <;> rfl

theorem decodeShift_wf {w : Word16} {i : Instr} (h : decodeShift w = .legal i) : i.wf = true := by
  unfold decodeShift at h
  split at h <;> cases h <;> rfl

theorem decodeMajor0_wf {w : Word16} {i : Instr} (h : decodeMajor0 w = .legal i) : i.wf = true := by
  unfold decodeMajor0 at h
  split at h
  case h_1 => exact decodeFormatZ_wf h
  case h_2 => cases h; rfl
  case h_3 | h_4 =>
    obtain ⟨hok, rfl⟩ := legalIf_eq_legal h
    exact (Bool.and_eq_true_iff.1 hok).2
  case h_7 => exact decodeStack_wf h
  case h_8 => exact decodeShift_wf h
  case h_5 | h_6 | h_9 | h_10 =>
    obtain ⟨-, rfl⟩ := legalIf_eq_legal h
    rfl
  case h_11 => cases h

theorem decodeMajor1_wf {w : Word16} {i : Instr} (h : decodeMajor1 w = .legal i) : i.wf = true := by
  unfold decodeMajor1 at h
  split at h
  case h_11 | h_12 | h_13 | h_14 =>
    obtain ⟨hok, rfl⟩ := legalIf_eq_legal h
    exact hok
  all_goals cases h <;> rfl

theorem decodeMajorE_wf {w : Word16} {i : Instr} (h : decodeMajorE w = .legal i) : i.wf = true := by
  obtain ⟨hok, rfl⟩ := legalIf_eq_legal h
  split <;> exact hok

/-- What the decoder reads is well formed. -/
theorem decode_wf {w : Word16} {i : Instr} (h : decode w = .legal i) : i.wf = true := by
  unfold decode at h
  split at h
  case h_1 => exact decodeMajor0_wf h
  case h_2 => exact decodeMajor1_wf h
  case h_10 => exact decodeMajorE_wf h
  all_goals cases h <;> rfl

/-- A well-formed instruction leaves bit 7 of `sr` clear (10_state R27): SEF alone could set it, and it does not name it. -/
theorem exec_srReserved {i : Instr} {s t : State} (hwf : i.wf = true) (h : exec i s = .next t)
    (hs : getFlag s.sr srReserved = false) : getFlag t.sr srReserved = false := by
  have hkept : mayWriteFlag i srReserved = false := by
    cases i with
    | sef b | clf b =>
      have hb : b ≠ 7#3 := by simpa [Instr.wf, flagNumberOk] using hwf
      exact beq_false_of_ne hb.symm
    | _ => rfl
  rw [flagsAreWrittenAsListed i s t srReserved h hkept, hs]

/-! ## Everything a step can do -/

/-- Dispatching ILLEGAL stops the core; dispatching an instruction runs it and retires it. -/
theorem dispatch_cases {d : Decoded} {s t : State} (h : dispatch d s = .next t) :
    (d = .illegal ∧ t = s.stop .illegalInstruction) ∨
    ∃ i u, d = .legal i ∧ exec i s = .next u ∧ t = u.retire s.pc i := by
  cases d with
  | illegal => exact .inl ⟨rfl, next_inj h⟩
  | legal i =>
    cases he : exec i s with
    | next u => exact .inr ⟨i, u, rfl, he, next_inj (by simpa [dispatch, he] using h)⟩
    | fault r | refused r => simp [dispatch, he] at h

/-- A fetch at `pc`, the count, and the dispatch; or a bus error before any count (40_pipeline R113, R114). -/
theorem fetchAndDispatch_cases {s t : State} (h : fetchAndDispatch s = .next t) :
    t = s.stop (.busError s.pc) ∨
    ∃ d u, s.fetch s.pc = some (d, u) ∧ dispatch d u.beginDispatch = .next t := by
  unfold fetchAndDispatch at h
  split at h
  · exact .inl (next_inj h)
  · exact .inr ⟨_, _, ‹_›, h⟩

theorem resumeDispatch_cases {s t : State} (h : resumeDispatch s = .next t) :
    t = s.stop (.busError s.pc) ∨ ∃ d u, s.fetch s.pc = some (d, u) ∧ dispatch d u = .next t := by
  unfold resumeDispatch at h
  split at h
  · exact .inl (next_inj h)
  · exact .inr ⟨_, _, ‹_›, h⟩

/-- A register stored through the harness: bit 7 of `sr` alone is not stored (80_host R312, R313). -/
theorem registerStore_cases {s t : State} {index n : Nat} {bytes : List Byte}
    (h : s.registerStore index bytes = some (n, t)) :
    t = s ∨ (∃ r v, t = s.setReg r v) ∨ (∃ v : Byte, t = s.setSr (v &&& 0x7F#8)) ∨ (∃ v, t = s.setSp v) ∨ ∃ v, t = s.setPc v := by
  unfold State.registerStore at h
  split_ifs at h <;> split at h <;> obtain ⟨-, rfl⟩ := Prod.mk.inj (Option.some.inj h)
  · exact .inr (.inl ⟨_, _, rfl⟩)
  · exact .inl rfl
  · exact .inr (.inr (.inl ⟨_, rfl⟩))
  · exact .inl rfl
  · exact .inr (.inr (.inr (.inl ⟨_, rfl⟩)))
  · exact .inl rfl
  · exact .inr (.inr (.inr (.inr ⟨_, rfl⟩)))
  · exact .inl rfl

/-- What a call of the harness that answers a next state can do; the core is HALTED. -/
inductive HarnessEffect (s : State) : State → Prop
  | created : HarnessEffect s (State.created s.env)
  | image (segments : List (Nat × List Byte)) (entry : Nat) : HarnessEffect s (s.resetWithImage segments entry)
  | bulk (base : Nat) (bytes : List Byte) : HarnessEffect s (s.bulkWrite base bytes)
  | reply (r : Reply) : HarnessEffect s (s.reply r)
  | stored {index n : Nat} {bytes : List Byte} {u : State} (h : s.registerStore index bytes = some (n, u)) :
      HarnessEffect s (u.reply (.count n))
  | run (mode : RunMode) (h : s.loaded = true) : HarnessEffect s (s.runEntry mode)

theorem harnessCall_effect {c : Command} {s t : State} (h : harnessCall c s = .next t) : HarnessEffect s t := by
  unfold harnessCall at h
  split at h
  · cases h
  cases c with
  | reset => obtain rfl := next_inj h; exact .created
  | resetWithImage segments entry machineType =>
    dsimp only at h
    split at h
    · obtain rfl := next_inj h; exact .image _ _
    · cases h
  | load base bytes | memoryWrite base bytes => obtain rfl := next_inj h; exact .bulk _ _
  | registerGet index =>
    dsimp only at h
    split at h
    · obtain rfl := next_inj h; exact .reply _
    · cases h
  | registerStore index bytes =>
    dsimp only at h
    split at h
    · obtain rfl := next_inj h; exact .stored ‹_›
    · cases h
  | memoryRead addr length | stopReason => obtain rfl := next_inj h; exact .reply _
  | run mode =>
    dsimp only at h
    split at h
    · obtain rfl := next_inj h; exact .run _ ‹_›
    · cases h

/-- A step of a HALTED core makes the next call, if any. -/
theorem harnessTurn_cases {s t : State} (h : harnessTurn s = .next t) :
    t = s ∨ ∃ rest, HarnessEffect { s with env := { s.env with commands := rest } } t := by
  unfold harnessTurn at h
  split at h
  · exact .inl (next_inj h)
  · exact .inr ⟨_, harnessCall_effect h⟩

/-- Everything a step can do, by the phase it starts in (40_pipeline R112). -/
theorem step_cases {s t : State} (h : step s = .next t) :
    (s.phase = .halted ∧ harnessTurn s = .next t) ∨ (s.phase = .dispatching ∧ resumeDispatch s = .next t) ∨
    (s.phase = .fetching ∧ (t = s.atBoundary.externalStop ∨ fetchAndDispatch s.atBoundary = .next t)) := by
  unfold step at h
  split at h
  · exact .inl ⟨‹_›, h⟩
  · exact .inr (.inl ⟨‹_›, h⟩)
  · refine .inr (.inr ⟨‹_›, ?_⟩)
    split at h
    · exact .inl (next_inj h)
    · exact .inr h

/-! ## Memory and cache along a step -/

theorem exec_code {i : Instr} {s t : State} (h : exec i s = .next t) : CodeReach s t := by
  obtain ⟨c, rfl⟩ | hr := exec_stops_or_retires h
  · exact .of_same rfl rfl
  · exact hr.code

theorem retire_code (s : State) (a : Addr) (i : Instr) : CodeReach s (s.retire a i) := by
  obtain ⟨-, h⟩ | ⟨-, -, h⟩ | ⟨-, -, h⟩ := retire_cases s a i <;> rw [h]
  · exact .of_same rfl rfl
  · exact .of_same rfl rfl

theorem dispatch_code {d : Decoded} {s t : State} (h : dispatch d s = .next t) : CodeReach s t := by
  obtain ⟨-, rfl⟩ | ⟨i, u, -, he, rfl⟩ := dispatch_cases h
  · exact .of_same rfl rfl
  · exact (exec_code he).trans (retire_code u _ i)

theorem fetchAndDispatch_code {s t : State} (h : fetchAndDispatch s = .next t) : CodeReach s t := by
  obtain rfl | ⟨d, u, hf, hd⟩ := fetchAndDispatch_cases h
  · exact .of_same rfl rfl
  · have hu : CodeReach s u.beginDispatch := CodeReach.frame (.single (.fetch hf)) rfl rfl
    exact hu.trans (dispatch_code hd)

theorem resumeDispatch_code {s t : State} (h : resumeDispatch s = .next t) : CodeReach s t := by
  obtain rfl | ⟨d, u, hf, hd⟩ := resumeDispatch_cases h
  · exact .of_same rfl rfl
  · exact .head (.fetch hf) (dispatch_code hd)

theorem harnessEffect_code {s t : State} (h : HarnessEffect s t) : CodeReach s t := by
  cases h with
  | created => exact .single (.clear rfl rfl)
  | image segments entry =>
    have hcleared : CodeReach s (State.created s.env) := .single (.clear rfl rfl)
    exact CodeReach.frame (hcleared.trans (codeReach_loadSegments segments _)) rfl rfl
  | bulk base bytes => exact codeReach_writeBytes bytes s _
  | reply | run => exact .of_same rfl rfl
  | stored h =>
    obtain rfl | ⟨r, v, rfl⟩ | ⟨v, rfl⟩ | ⟨v, rfl⟩ | ⟨v, rfl⟩ := registerStore_cases h <;> exact .of_same rfl rfl

theorem harnessTurn_code {s t : State} (h : harnessTurn s = .next t) : CodeReach s t := by
  obtain rfl | ⟨rest, he⟩ := harnessTurn_cases h
  · exact .refl
  · have hcall : CodeReach s { s with env := { s.env with commands := rest } } := .of_same rfl rfl
    exact hcall.trans (harnessEffect_code he)

theorem atBoundary_code (s : State) : CodeReach s s.atBoundary := by
  obtain ⟨-, -, -, -, hmem, hcache, -⟩ := atBoundary_same s
  exact .of_same hmem hcache

/-- A step changes memory and cache by fetches, stored bytes and resets alone. -/
theorem step_code {s t : State} (h : step s = .next t) : CodeReach s t := by
  obtain ⟨-, h⟩ | ⟨-, h⟩ | ⟨-, rfl | h⟩ := step_cases h
  · exact harnessTurn_code h
  · exact resumeDispatch_code h
  · exact CodeReach.frame (atBoundary_code s) rfl rfl
  · exact (atBoundary_code s).trans (fetchAndDispatch_code h)

/-! ## The invariant -/

/-- The clauses of the invariant that hold inside a step too, whatever the phase. -/
structure DataInv (s : State) : Prop where
  canonical : Canonical s
  coherent : CacheCoherent s
  srReserved : getFlag s.sr srReserved = false
  intervalPositive : 0 < s.env.pollInterval
  pollPositive : 0 < s.pollCount
  pollBounded : s.pollCount ≤ s.env.pollInterval

theorem dataInv_of_inv {s : State} (h : Inv s) : DataInv s :=
  ⟨⟨h.memory, h.cacheSorted⟩, h.cacheCoherent, h.srReserved, h.intervalPositive, h.pollPositive, h.pollBounded⟩

/-- A HALTED core satisfies the invariant where its halt record is legal. -/
theorem DataInv.inv_halted {s : State} (h : DataInv s) (hphase : s.phase = .halted)
    (hhalt : ∀ r, s.halt = some r → r.legal) : Inv s where
  memory := h.canonical.1
  cacheSorted := h.canonical.2
  cacheCoherent := h.coherent
  srReserved := h.srReserved
  intervalPositive := h.intervalPositive
  pollPositive := h.pollPositive
  pollBounded := h.pollBounded
  notDispatching := by simp [hphase]
  haltWhenHalted := by simp [hphase]
  haltLegal := hhalt
  runningLoaded := by simp [hphase]

/-- A running core satisfies the invariant where it has no halt record and an image is loaded. -/
theorem DataInv.inv_fetching {s : State} (h : DataInv s) (hphase : s.phase = .fetching) (hhalt : s.halt = none)
    (hloaded : s.loaded = true) : Inv s where
  memory := h.canonical.1
  cacheSorted := h.canonical.2
  cacheCoherent := h.coherent
  srReserved := h.srReserved
  intervalPositive := h.intervalPositive
  pollPositive := h.pollPositive
  pollBounded := h.pollBounded
  notDispatching := by simp [hphase]
  haltWhenHalted := fun _ => hhalt
  haltLegal := by simp [hhalt]
  runningLoaded := fun _ => hloaded

/-- Settles O19: a created context is empty, and the interval of the reset environment is positive (log 2). -/
theorem resetSatisfiesTheInvariant : Obligations.ResetSatisfiesTheInvariant := by
  have hdata : DataInv State.reset :=
    ⟨⟨by decide, by decide⟩, coherent_of_empty rfl, by decide, by decide, by decide, by decide⟩
  exact hdata.inv_halted rfl nofun

/-- The data clauses are kept where memory and cache move along `CodeReach`, bit 7 of `sr` stays clear, and the counter
and its interval are as before. -/
theorem DataInv.keeps {s t : State} (h : DataInv s) (hcode : CodeReach s t) (hsr : getFlag t.sr Machine.srReserved = false)
    (hinterval : t.env.pollInterval = s.env.pollInterval) (hpoll : t.pollCount = s.pollCount) : DataInv t where
  canonical := hcode.canonical h.canonical
  coherent := hcode.coherent h.coherent
  srReserved := hsr
  intervalPositive := hinterval ▸ h.intervalPositive
  pollPositive := hpoll ▸ h.pollPositive
  pollBounded := by rw [hinterval, hpoll]; exact h.pollBounded

/-- The data clauses see no field but those they speak of. -/
theorem DataInv.congr {s t : State} (h : DataInv s) (hmem : t.mem = s.mem) (hcache : t.icache = s.icache)
    (hsr : t.sr = s.sr) (hinterval : t.env.pollInterval = s.env.pollInterval) (hpoll : t.pollCount = s.pollCount) :
    DataInv t :=
  h.keeps (.of_same hmem hcache) (hsr ▸ h.srReserved) hinterval hpoll

/-- Every stop condition of P0 records an exit status of 8 bits or one of the four codes (60_exceptions R241). -/
theorem record_legal (c : StopCondition) : c.record.legal := by
  cases c with
  | exit status => exact .inl ⟨rfl, status.isLt⟩
  | externalStop => exact .inr ⟨rfl, .inl rfl⟩
  | illegalInstruction => exact .inr ⟨rfl, .inr (.inl rfl)⟩
  | breakpoint | trapStop _ | stepComplete => exact .inr ⟨rfl, .inr (.inr (.inl rfl))⟩
  | busError _ => exact .inr ⟨rfl, .inr (.inr (.inr rfl))⟩

theorem DataInv.inv_stop {s : State} (h : DataInv s) (c : StopCondition) : Inv (s.stop c) :=
  (h.congr rfl rfl rfl rfl rfl : DataInv (s.stop c)).inv_halted rfl fun _ hr => Option.some.inj hr ▸ record_legal c

/-! ### A running core -/

theorem DataInv.created {env : Environment} (h : 0 < env.pollInterval) : DataInv (State.created env) :=
  ⟨⟨by simp [State.created, Memory.wf], by simp [State.created]⟩, coherent_of_empty rfl, by simp [State.created, getFlag], h, h,
    Nat.le_refl _⟩

/-- At a boundary the counter is reloaded where it would reach 0 (40_pipeline R120). -/
theorem DataInv.atBoundary {s : State} (h : DataInv s) : DataInv s.atBoundary := by
  obtain ⟨-, hsr, -, -, hmem, hcache, -⟩ := atBoundary_same s
  have hcode : CodeReach s s.atBoundary := .of_same hmem hcache
  have hinterval := h.intervalPositive
  have hpoll := h.pollBounded
  obtain ⟨hdue, e⟩ | ⟨hdue, e⟩ := atBoundary_cases s
  · refine ⟨hcode.canonical h.canonical, hcode.coherent h.coherent, hsr ▸ h.srReserved, ?_, ?_, ?_⟩ <;> rw [e]
    · exact hinterval
    · exact hinterval
    · exact Nat.le_refl _
  · have hne : s.pollCount - 1 ≠ 0 := by simpa [State.pollDue] using hdue
    refine ⟨hcode.canonical h.canonical, hcode.coherent h.coherent, hsr ▸ h.srReserved, ?_, ?_, ?_⟩ <;> rw [e]
    · exact hinterval
    · exact Nat.pos_of_ne_zero hne
    · exact (Nat.sub_le _ _).trans hpoll

/-- What the steps of the loop carry from the boundary to the retirement, whatever the phase. -/
structure Running (s : State) : Prop where
  data : DataInv s
  halt : s.halt = none
  loaded : s.loaded = true

theorem Running.atBoundary {s : State} (h : Running s) : Running s.atBoundary := by
  obtain ⟨-, -, -, -, -, -, -, -, hhalt, hloaded⟩ := atBoundary_same s
  exact ⟨h.data.atBoundary, hhalt.trans h.halt, hloaded.trans h.loaded⟩

/-- A fetch keeps the clauses, and what it decodes is well formed. -/
theorem Running.fetch {s t : State} {a : Addr} {d : Decoded} (h : Running s) (hf : s.fetch a = some (d, t)) :
    Running t ∧ ∀ i, d = .legal i → i.wf = true := by
  obtain ⟨hsame, -⟩ := fetch_same hf
  obtain ⟨rfl, -⟩ := fetch_coherent h.data.coherent hf
  refine ⟨⟨?_, hsame.halt.trans h.halt, hsame.loaded.trans h.loaded⟩, fun i => decode_wf⟩
  exact h.data.keeps (.single (.fetch hf)) (hsame.sr ▸ h.data.srReserved) (by rw [hsame.env]) hsame.pollCount

/-- An instruction keeps the data clauses. -/
theorem DataInv.exec {i : Instr} {s t : State} (h : DataInv s) (hwf : i.wf = true) (he : Machine.exec i s = .next t) :
    DataInv t := by
  obtain ⟨-, hpoll, -, -, _, _, _, henv⟩ := exec_sameLoop he
  exact h.keeps (exec_code he) (exec_srReserved hwf he h.srReserved) (by rw [henv]) hpoll

/-- Retirement of an instruction that did not stop the core. -/
theorem Running.retire {s : State} (h : Running s) (hphase : s.phase ≠ .halted) (a : Addr) (i : Instr) :
    Inv (s.retire a i) := by
  have hobserved : DataInv (s.observe a i) := h.data.congr rfl rfl rfl rfl rfl
  obtain ⟨hhalted, -⟩ | ⟨-, -, e⟩ | ⟨-, -, e⟩ := retire_cases s a i
  · exact absurd hhalted hphase
  · exact e ▸ hobserved.inv_stop _
  · exact e ▸ hobserved.inv_fetching rfl h.halt h.loaded

theorem stop_retire (s : State) (c : StopCondition) (a : Addr) (i : Instr) : (s.stop c).retire a i = s.stop c :=
  if_pos rfl

/-- The dispatch of what has been fetched ends in a state with the invariant. -/
theorem Running.dispatch {d : Decoded} {s t : State} (h : Running s) (hphase : s.phase = .dispatching)
    (hwf : ∀ i, d = .legal i → i.wf = true) (hd : Machine.dispatch d s = .next t) : Inv t := by
  obtain ⟨-, rfl⟩ | ⟨i, u, rfl, he, rfl⟩ := dispatch_cases hd
  · exact h.data.inv_stop _
  · have hdata : DataInv u := h.data.exec (hwf i rfl) he
    obtain ⟨c, rfl⟩ | hr := exec_stops_or_retires he
    · rw [stop_retire]
      exact h.data.inv_stop c
    · have hrunning : Running u := ⟨hdata, hr.halt.trans h.halt, hr.loop.loaded.trans h.loaded⟩
      exact hrunning.retire (by simp [hr.phase, hphase]) _ _

theorem Running.fetchAndDispatch {s t : State} (h : Running s) (ht : Machine.fetchAndDispatch s = .next t) : Inv t := by
  obtain rfl | ⟨d, u, hf, hd⟩ := fetchAndDispatch_cases ht
  · exact h.data.inv_stop _
  · obtain ⟨hu, hwf⟩ := h.fetch hf
    have hbegun : Running u.beginDispatch := ⟨hu.data.congr rfl rfl rfl rfl rfl, hu.halt, hu.loaded⟩
    exact hbegun.dispatch rfl hwf hd

/-! ### A HALTED core -/

/-- A register stored through the harness keeps bit 7 of `sr` clear (80_host R313), and the core HALTED. -/
theorem registerStore_inv {s t : State} {index n : Nat} {bytes : List Byte} (h : Inv s) (hphase : s.phase = .halted)
    (hr : s.registerStore index bytes = some (n, t)) : Inv t ∧ t.phase = .halted := by
  have hdata := dataInv_of_inv h
  obtain rfl | ⟨r, v, rfl⟩ | ⟨v, rfl⟩ | ⟨v, rfl⟩ | ⟨v, rfl⟩ := registerStore_cases hr <;> refine ⟨?_, hphase⟩
  · exact h
  · exact DataInv.inv_halted (hdata.congr rfl rfl rfl rfl rfl) hphase h.haltLegal
  · have hclear : getFlag (v &&& 0x7F#8) srReserved = false := BitVec.getLsbD_and.trans (Bool.and_false _)
    exact DataInv.inv_halted (hdata.keeps (.of_same rfl rfl) hclear rfl rfl) hphase h.haltLegal
  · exact DataInv.inv_halted (hdata.congr rfl rfl rfl rfl rfl) hphase h.haltLegal
  · exact DataInv.inv_halted (hdata.congr rfl rfl rfl rfl rfl) hphase h.haltLegal

theorem reply_inv {s : State} (h : Inv s) (hphase : s.phase = .halted) (r : Reply) : Inv (s.reply r) :=
  DataInv.inv_halted ((dataInv_of_inv h).congr rfl rfl rfl rfl rfl) hphase h.haltLegal

theorem resetWithImage_inv {s : State} (h : Inv s) (segments : List (Nat × List Byte)) (entry : Nat) :
    Inv (s.resetWithImage segments entry) := by
  have hsame := loadSegments_same segments (State.created s.env)
  have hcode : CodeReach (State.created s.env) (s.resetWithImage segments entry) :=
    CodeReach.frame (codeReach_loadSegments segments _) rfl rfl
  have hcreated := DataInv.created h.intervalPositive
  refine DataInv.inv_halted ?_ hsame.phase fun r hr => ?_
  · exact hcreated.keeps hcode ((congrArg (getFlag · srReserved) hsame.sr).trans hcreated.srReserved)
      (congrArg (·.pollInterval) hsame.env) hsame.pollCount
  · exact nomatch hsame.halt.symm.trans hr

/-- Every call of the harness to a HALTED core keeps the invariant. -/
theorem harnessEffect_inv {s t : State} (h : Inv s) (hphase : s.phase = .halted) (he : HarnessEffect s t) : Inv t := by
  cases he with
  | created => exact (DataInv.created h.intervalPositive).inv_halted rfl nofun
  | image segments entry => exact resetWithImage_inv h segments entry
  | bulk base bytes =>
    have hsame := writeBytes_same bytes s (mask base)
    refine DataInv.inv_halted ?_ (hsame.phase.trans hphase) fun r hr => h.haltLegal r (hsame.halt ▸ hr)
    exact (dataInv_of_inv h).keeps (codeReach_writeBytes bytes s _) (hsame.sr ▸ h.srReserved)
      (congrArg (·.pollInterval) hsame.env) hsame.pollCount
  | reply r => exact reply_inv h hphase r
  | stored hr =>
    obtain ⟨hu, huphase⟩ := registerStore_inv h hphase hr
    exact reply_inv hu huphase _
  | run mode hloaded => exact DataInv.inv_fetching ((dataInv_of_inv h).congr rfl rfl rfl rfl rfl) rfl rfl hloaded

theorem harnessTurn_inv {s t : State} (h : Inv s) (hphase : s.phase = .halted) (ht : harnessTurn s = .next t) : Inv t := by
  obtain rfl | ⟨rest, he⟩ := harnessTurn_cases ht
  · exact h
  · have hcall : Inv { s with env := { s.env with commands := rest } } :=
      DataInv.inv_halted ((dataInv_of_inv h).congr rfl rfl rfl rfl rfl) hphase h.haltLegal
    exact harnessEffect_inv hcall hphase he

/-- Settles O18: a HALTED core by the harness's calls, a running one by its boundary, fetch, dispatch and retirement. -/
theorem everyStepKeepsTheInvariant : Obligations.EveryStepKeepsTheInvariant := by
  intro s t h ht
  obtain ⟨hphase, ht⟩ | ⟨hphase, -⟩ | ⟨hphase, ht⟩ := step_cases ht
  · exact harnessTurn_inv h hphase ht
  · exact absurd hphase h.notDispatching
  · have hboundary : Running s.atBoundary :=
      Running.atBoundary ⟨dataInv_of_inv h, h.haltWhenHalted hphase, h.runningLoaded hphase⟩
    obtain rfl | ht := ht
    · exact DataInv.inv_stop (s := { s.atBoundary with stopRequest := false }) (hboundary.data.congr rfl rfl rfl rfl rfl) _
    · exact hboundary.fetchAndDispatch ht

/-! ## The decode cache is invisible -/

/-- The state with its decode cache emptied. -/
def withoutCache (s : State) : State := { s with icache := [] }

/-- An outcome with the decode cache of its next state emptied. -/
def outcomeWithoutCache : Host.Outcome State Fault Refusal → Host.Outcome State Fault Refusal
  | .next s => .next (withoutCache s)
  | .fault r => .fault r
  | .refused r => .refused r

/-- `f` answers the same, but for the cache, whether a coherent cache is there or none. -/
def CacheBlind (f : State → Host.Outcome State Fault Refusal) : Prop :=
  ∀ s, CacheCoherent s → outcomeWithoutCache (f s) = outcomeWithoutCache (f (withoutCache s))

theorem coherent_withoutCache (s : State) : CacheCoherent (withoutCache s) := coherent_of_empty rfl

/-- States that differ in their caches alone are those that are equal without them. -/
theorem sameButCache_iff {s t : State} : SameButCache s t ↔ withoutCache s = withoutCache t := by
  constructor
  · intro h
    rw [h]
    rfl
  · intro h
    exact (congrArg (fun u : State => { u with icache := t.icache }) h).symm

/-- Outcomes that are equal without caches: next states that differ in their caches alone, or the same refusal. -/
theorem outcomes_agree {o o' : Host.Outcome State Fault Refusal} (h : outcomeWithoutCache o = outcomeWithoutCache o') :
    (∃ t u, o = .next t ∧ o' = .next u ∧ withoutCache t = withoutCache u) ∨ ∃ r, o = .refused r ∧ o' = .refused r := by
  cases o with
  | next t =>
    cases o' with
    | next u => exact .inl ⟨t, u, rfl, rfl, Host.Outcome.next.inj h⟩
    | fault r | refused r => exact nomatch h
  | fault r => exact nomatch r
  | refused r =>
    cases o' with
    | refused r' => exact .inr ⟨r, rfl, congrArg _ (Host.Outcome.refused.inj h).symm⟩
    | next u | fault r' => exact nomatch h

/-! ### Operations that do not look at the cache -/

theorem writeBytes_withoutCache (vs : List Byte) :
    ∀ (s : State) (a : Addr), (withoutCache s).writeBytes a vs = withoutCache (s.writeBytes a vs) := by
  induction vs with
  | nil => exact fun _ _ => rfl
  | cons v vs ih => exact fun s a => ih (s.storeByte a v) _

theorem writeLE_withoutCache (n : Nat) : ∀ (s : State) (a : Addr) (v : BitVec (8 * n)),
    (withoutCache s).writeLE a n v = withoutCache (s.writeLE a n v) := by
  induction n with
  | zero => exact fun _ _ _ => rfl
  | succ n ih => exact fun s a v => ih (s.storeByte a _) _ _

theorem memWrite_withoutCache (s : State) (a : Addr) (n : Width) (v : BitVec (8 * n.bytes)) :
    (withoutCache s).memWrite a n v = (s.memWrite a n v).map withoutCache := by
  unfold State.memWrite
  split
  · exact congrArg some (writeLE_withoutCache _ s a v)
  · rfl

theorem readBytes_withoutCache (s : State) (n : Nat) : ∀ a : Addr, (withoutCache s).readBytes a n = s.readBytes a n := by
  induction n with
  | zero => exact fun _ => rfl
  | succ n ih => exact fun a => congrArg (s.byteAt a :: ·) (ih _)

theorem atBoundary_withoutCache (s : State) : (withoutCache s).atBoundary = withoutCache s.atBoundary := by
  obtain ⟨h, e⟩ | ⟨h, e⟩ := atBoundary_cases s <;> obtain ⟨h', e'⟩ | ⟨h', e'⟩ := atBoundary_cases (withoutCache s)
  · rw [e, e']; rfl
  · exact absurd (h.symm.trans h') nofun
  · exact absurd (h.symm.trans h') nofun
  · rw [e, e']; rfl

theorem retire_withoutCache (s : State) (a : Addr) (i : Instr) :
    (withoutCache s).retire a i = withoutCache (s.retire a i) := by
  unfold State.retire
  by_cases h : s.phase = .halted
  · rw [if_pos h, if_pos (show (withoutCache s).phase = .halted from h)]
  · rw [if_neg h, if_neg (show (withoutCache s).phase ≠ .halted from h)]
    rw [show (withoutCache s).env.mode = s.env.mode from rfl]
    cases s.env.mode <;> rfl

theorem registerStore_withoutCache (s : State) (index : Nat) (bytes : List Byte) :
    (withoutCache s).registerStore index bytes = (s.registerStore index bytes).map (Prod.map id withoutCache) := by
  unfold State.registerStore
  split_ifs
  · split <;> rfl
  · split <;> rfl
  · split <;> rfl
  · split <;> rfl
  · rfl

/-! ### The fetch -/

/-- With a coherent cache a fetch at an even address gives the decode of the word in memory, and only the cache may
change. -/
theorem fetch_even {s : State} {a : Addr} (h : CacheCoherent s) (heven : a.toNat % 2 = 0) :
    ∃ t, s.fetch a = some (decode (s.wordAt a), t) ∧ CacheCoherent t ∧ withoutCache t = withoutCache s := by
  cases hf : s.fetch a with
  | none => exact absurd heven ((fetch_eq_none s).1 hf)
  | some p =>
    obtain ⟨hd, ht⟩ := fetch_coherent h hf
    refine ⟨p.2, by rw [← hd], ht, ?_⟩
    obtain ⟨-, ⟨_, -, -, e⟩ | ⟨-, -, e⟩⟩ := fetch_cases hf <;> rw [e]
    rfl

/-- A fetch with a coherent cache and one with none fail alike, or give the same decode and states that differ in their
caches alone. -/
theorem fetch_withoutCache {s : State} (h : CacheCoherent s) (a : Addr) :
    (s.fetch a = none ∧ (withoutCache s).fetch a = none) ∨
    ∃ d t u, s.fetch a = some (d, t) ∧ (withoutCache s).fetch a = some (d, u) ∧ CacheCoherent t ∧ CacheCoherent u ∧
      withoutCache t = withoutCache s ∧ withoutCache u = withoutCache s := by
  by_cases heven : a.toNat % 2 = 0
  · obtain ⟨t, hf, ht, e⟩ := fetch_even h heven
    obtain ⟨u, hf', hu, e'⟩ := fetch_even (coherent_withoutCache s) heven
    exact .inr ⟨_, t, u, hf, hf', ht, hu, e, e'⟩
  · exact .inl ⟨(fetch_eq_none s).2 heven, (fetch_eq_none _).2 heven⟩

/-! ### Every instruction -/

theorem skip_cacheBlind (cond : Bool) {s : State} (h : CacheCoherent s) :
    withoutCache (s.skip cond) = withoutCache ((withoutCache s).skip cond) := by
  cases cond with
  | false => rfl
  | true =>
    obtain ⟨hf, hf'⟩ | ⟨d, t, u, hf, hf', -, -, e, e'⟩ := fetch_withoutCache h s.nextPc
    · simp only [State.skip, if_true, hf, show (withoutCache s).fetch (withoutCache s).nextPc = _ from hf']
      rfl
    · simp only [State.skip, if_true, hf, show (withoutCache s).fetch (withoutCache s).nextPc = _ from hf']
      exact congrArg (State.setPc · (s.skipTarget d.width)) (e.trans e'.symm)

@[simp] theorem trapDescriptor_withoutCache (s : State) : (withoutCache s).trapDescriptor = s.trapDescriptor := rfl
@[simp] theorem trapBuffer_withoutCache (s : State) : (withoutCache s).trapBuffer = s.trapBuffer := rfl
@[simp] theorem trapLength_withoutCache (s : State) : (withoutCache s).trapLength = s.trapLength := rfl
@[simp] theorem writeAnswer_withoutCache (s : State) (fd : Byte) (data : List Byte) :
    (withoutCache s).writeAnswer fd data = s.writeAnswer fd data := rfl
@[simp] theorem readAnswer_withoutCache (s : State) (fd : Byte) (len : Nat) :
    (withoutCache s).readAnswer fd len = s.readAnswer fd len := rfl
@[simp] theorem callRead_withoutCache (s : State) (fd : Byte) (len : Nat) :
    (withoutCache s).callRead fd len = withoutCache (s.callRead fd len) := rfl

theorem sysWrite_cacheBlind : CacheBlind sysWrite := by
  intro s _
  simp only [sysWrite, trapDescriptor_withoutCache, trapBuffer_withoutCache, trapLength_withoutCache,
    readBytes_withoutCache, writeAnswer_withoutCache]
  cases s.writeAnswer s.trapDescriptor (s.readBytes s.trapBuffer s.trapLength) with
  | success n => dsimp only; split <;> rfl
  | failure e => rfl

theorem sysRead_cacheBlind : CacheBlind sysRead := by
  intro s _
  simp only [sysRead, trapDescriptor_withoutCache, trapBuffer_withoutCache, trapLength_withoutCache,
    readAnswer_withoutCache, callRead_withoutCache, writeBytes_withoutCache]
  cases s.readAnswer s.trapDescriptor s.trapLength with
  | success data => dsimp only; split <;> rfl
  | failure e => rfl

theorem trap_cacheBlind (k : Byte) : CacheBlind (execTrap k) := by
  intro s h
  unfold execTrap
  split_ifs
  · rfl
  · exact sysWrite_cacheBlind s h
  · exact sysRead_cacheBlind s h
  · rfl

/-- No instruction sees the cache: the skips alone fetch, and a fetch is blind to it; all others do not look at it. -/
theorem exec_cacheBlind (i : Instr) : CacheBlind (exec i) := by
  intro s h
  cases i with
  | sbrc b r | sbrs b r | cpse d r => exact congrArg Host.Outcome.next (skip_cacheBlind _ h)
  | trap k => exact trap_cacheBlind k s h
  | brbc b k | brbs b k =>
    refine congrArg Host.Outcome.next ?_
    rw [branch_eq, branch_eq]
    rfl
  | jmp =>
    change outcomeWithoutCache (execJmp s) = outcomeWithoutCache (execJmp (withoutCache s))
    rw [execJmp, execJmp, show (withoutCache s).secondWord = s.secondWord from rfl]
    cases s.secondWord <;> rfl
  | call =>
    change outcomeWithoutCache (execCall s) = outcomeWithoutCache (execCall (withoutCache s))
    rw [execCall, execCall, show (withoutCache s).secondWord = s.secondWord from rfl]
    cases s.secondWord <;> rfl
  | ldw d r =>
    change outcomeWithoutCache (execLdw d r s) = outcomeWithoutCache (execLdw d r (withoutCache s))
    rw [execLdw, execLdw, show (withoutCache s).memRead ((withoutCache s).pairAddress r) .two =
      s.memRead (s.pairAddress r) .two from rfl]
    cases s.memRead (s.pairAddress r) .two <;> rfl
  | stw d r =>
    change outcomeWithoutCache (execStw d r s) = outcomeWithoutCache (execStw d r (withoutCache s))
    rw [execStw, execStw, memWrite_withoutCache, show (withoutCache s).pairAddress r = s.pairAddress r from rfl,
      show (withoutCache s).getPair d = s.getPair d from rfl]
    cases s.memWrite (s.pairAddress r) .two (s.getPair d) <;> rfl
  | _ => rfl

/-! ### Every step -/

theorem dispatch_cacheBlind (d : Decoded) : CacheBlind (dispatch d) := by
  intro s h
  cases d with
  | illegal => rfl
  | legal i =>
    obtain ⟨t, u, ht, hu, e⟩ | ⟨r, ht, hu⟩ := outcomes_agree (exec_cacheBlind i s h) <;> simp only [dispatch, ht, hu]
    refine congrArg Host.Outcome.next ?_
    rw [← retire_withoutCache, e, retire_withoutCache]
    rfl

/-- What is dispatched in two states that differ in coherent caches alone ends alike. -/
theorem dispatch_agrees (d : Decoded) {t u : State} (ht : CacheCoherent t) (hu : CacheCoherent u)
    (e : withoutCache t = withoutCache u) :
    outcomeWithoutCache (dispatch d t) = outcomeWithoutCache (dispatch d u) := by
  rw [dispatch_cacheBlind d t ht, e, ← dispatch_cacheBlind d u hu]

theorem fetchAndDispatch_cacheBlind : CacheBlind fetchAndDispatch := by
  intro s h
  obtain ⟨hf, hf'⟩ | ⟨d, t, u, hf, hf', ht, hu, e, e'⟩ := fetch_withoutCache h s.pc
  · simp only [fetchAndDispatch, pcGet_eq, hf, show (withoutCache s).fetch (withoutCache s).pc = _ from hf']
    rfl
  · simp only [fetchAndDispatch, pcGet_eq, hf, show (withoutCache s).fetch (withoutCache s).pc = _ from hf']
    exact dispatch_agrees d (coherent_of_same rfl rfl ht) (coherent_of_same rfl rfl hu)
      (congrArg State.beginDispatch (e.trans e'.symm))

theorem resumeDispatch_cacheBlind : CacheBlind resumeDispatch := by
  intro s h
  obtain ⟨hf, hf'⟩ | ⟨d, t, u, hf, hf', ht, hu, e, e'⟩ := fetch_withoutCache h s.pc
  · simp only [resumeDispatch, pcGet_eq, hf, show (withoutCache s).fetch (withoutCache s).pc = _ from hf']
    rfl
  · simp only [resumeDispatch, pcGet_eq, hf, show (withoutCache s).fetch (withoutCache s).pc = _ from hf']
    exact dispatch_agrees d ht hu (e.trans e'.symm)

theorem harnessCall_cacheBlind (c : Command) : CacheBlind (harnessCall c) := by
  intro s _
  unfold harnessCall
  rw [show (withoutCache s).phase = s.phase from rfl]
  split
  · rfl
  cases c with
  | reset | stopReason => rfl
  | registerGet index =>
    dsimp only
    rw [show (withoutCache s).registerGet index = s.registerGet index from rfl]
    cases s.registerGet index <;> rfl
  | resetWithImage segments entry machineType => dsimp only; split <;> rfl
  | load base bytes | memoryWrite base bytes =>
    exact congrArg Host.Outcome.next (congrArg withoutCache (writeBytes_withoutCache bytes s _)).symm
  | registerStore index bytes =>
    dsimp only
    rw [registerStore_withoutCache]
    cases s.registerStore index bytes <;> rfl
  | memoryRead addr length =>
    dsimp only
    rw [show (withoutCache s).bulkRead addr length = s.bulkRead addr length from readBytes_withoutCache s length _]
    rfl
  | run mode =>
    dsimp only
    rw [show (withoutCache s).loaded = s.loaded from rfl]
    split <;> rfl

theorem harnessTurn_cacheBlind : CacheBlind harnessTurn := by
  intro s h
  unfold harnessTurn
  rw [show (withoutCache s).env = s.env from rfl]
  cases s.env.commands with
  | nil => rfl
  | cons c rest =>
    exact harnessCall_cacheBlind c { s with env := { s.env with commands := rest } } (coherent_of_same rfl rfl h)

theorem step_cacheBlind : CacheBlind step := by
  intro s h
  unfold step
  rw [show (withoutCache s).phase = s.phase from rfl]
  cases s.phase with
  | halted => exact harnessTurn_cacheBlind s h
  | dispatching => exact resumeDispatch_cacheBlind s h
  | fetching =>
    dsimp only
    rw [atBoundary_withoutCache, show (withoutCache s.atBoundary).stopRequest = s.atBoundary.stopRequest from rfl]
    split
    · rfl
    · exact fetchAndDispatch_cacheBlind s.atBoundary ((atBoundary_code s).coherent h)

/-- Settles O22: both states step as the one they are without their caches, and a step keeps each cache coherent. -/
theorem decodeCacheIsInvisible : Obligations.DecodeCacheIsInvisible := by
  intro s u ⟨hsame, hs, hu⟩
  have hagree : outcomeWithoutCache (step s) = outcomeWithoutCache (step u) := by
    rw [step_cacheBlind s hs, sameButCache_iff.1 hsame, ← step_cacheBlind u hu]
  obtain ⟨t, v, ht, hv, e⟩ | ⟨r, ht, hv⟩ := outcomes_agree hagree <;> rw [ht, hv]
  · exact ⟨sameButCache_iff.2 e, (step_code ht).coherent hs, (step_code hv).coherent hu⟩
  · rfl

end Sys2Proof.Proofs

namespace Sys2Proof.Proofs

open Sys2Proof Sys2Proof.Machine Sys2Proof.Statements Sys2Proof.Laws

/-! ## A fetch after a store, and at an odd address (20_memory R66, 40_pipeline R113, R114) -/

/-- After changes that keep a coherent cache coherent, a fetch at an even address decodes the bytes then in memory. -/
theorem CodeReach.fetch_even {s t : State} (h : CodeReach s t) (hs : CacheCoherent s) {b : Addr} (hb : b.toNat % 2 = 0) :
    ∃ u, t.fetch b = some (decode (t.wordAt b), u) := by
  obtain ⟨u, hfetch, -⟩ := Proofs.fetch_even (h.coherent hs) hb
  exact ⟨u, hfetch⟩

/-- Settles O23: a write of the primitive and a run of stored bytes are both a chain of single stored bytes. -/
theorem storesAreSeenByTheNextFetch : Obligations.StoresAreSeenByTheNextFetch := by
  intro s hs
  refine ⟨fun a n v t b hw hb => ?_, fun a vs b hb => (codeReach_writeBytes vs s a).fetch_even hs hb⟩
  obtain ⟨-, rfl⟩ := memWrite_eq_some.1 hw
  exact (codeReach_writeLE n.bytes s a v).fetch_even hs hb

/-- Where no stop is requested at the boundary, a running core goes on to a fetch (40_pipeline R112, R120). -/
theorem step_fetching {s : State} (hphase : s.phase = .fetching) (hgo : s.atBoundary.stopRequest = false) :
    step s = fetchAndDispatch s.atBoundary := by
  simp [step, hphase, hgo]

/-- A fetch at an odd `pc` stops before the count (60_exceptions R243). -/
theorem fetchAndDispatch_odd {s : State} (hodd : s.pc.toNat % 2 ≠ 0) :
    fetchAndDispatch s = .next (s.stop (.busError s.pc)) := by
  have hfetch : s.fetch s.pc = none := (fetch_eq_none s).2 hodd
  rw [fetchAndDispatch, pcGet_eq, hfetch]

/-- Settles O9: neither the boundary nor the stop writes what is to be unchanged. -/
theorem oddProgramCounterStopsTheCore : Obligations.OddProgramCounterStopsTheCore := by
  intro s hphase hgo hodd
  obtain ⟨hregs, hsr, hsp, hpc, hmem, hcache, hcycles, -, -, hloaded⟩ := atBoundary_same s
  have hodd' : s.atBoundary.pc.toNat % 2 ≠ 0 := by rw [hpc, hodd]; decide
  refine ⟨_, (step_fetching hphase hgo).trans (fetchAndDispatch_odd hodd'), rfl, rfl, hpc, hcycles, fun j => ?_, hsr, hsp,
    fun a => ?_, hcache, hloaded⟩
  · simp [State.getReg, hregs]
  · simp [State.byteAt, hmem]

/-! ## The addresses of an access (20_memory R51) -/

/-- `a + j` lies `j` above `a`, modulo 2^16. -/
theorem offset_add {a : Addr} {j : Nat} (hj : j < 65536) : (a + BitVec.ofNat 16 j - a).toNat = j := by
  rw [add_sub_cancel_left]
  exact Nat.mod_eq_of_lt hj

/-- An address less than `n` above `a` is one of the `n` addresses from `a` on. -/
theorem mem_addresses_of_offset {a b : Addr} {n : Nat} (h : (b - a).toNat < n) :
    b ∈ (List.range n).map fun j => a + BitVec.ofNat 16 j := by
  refine List.mem_map.2 ⟨(b - a).toNat, List.mem_range.2 h, ?_⟩
  rw [BitVec.ofNat_toNat, BitVec.setWidth_eq, add_sub_cancel]

/-- The `n + 1` addresses from `a` on are `a` and the `n` from `a + 1` on. -/
theorem addresses_succ {β : Type} (f : Addr → β) (a : Addr) (n : Nat) :
    ((List.range (n + 1)).map fun j => f (a + BitVec.ofNat 16 j)) =
      f a :: (List.range n).map fun j => f (a + 1#16 + BitVec.ofNat 16 j) := by
  have hnext : ∀ j, a + BitVec.ofNat 16 (j + 1) = a + 1#16 + BitVec.ofNat 16 j := fun j => by
    rw [Nat.add_comm j 1, BitVec.ofNat_add, BitVec.add_assoc]
  rw [List.range_succ_eq_map, List.map_cons, List.map_map, BitVec.add_zero]
  exact congrArg (f a :: ·) (List.map_congr_left fun j _ => congrArg f (hnext j))

theorem width_bytes_le (n : Width) : n.bytes ≤ 8 := by cases n <;> decide

/-! ## The access primitive (20_memory R53, R54) -/

/-- A read fails exactly where it is misaligned. -/
theorem memRead_eq_none {s : State} {a : Addr} {n : Width} : s.memRead a n = none ↔ a.toNat % n.bytes ≠ 0 := by
  simp [State.memRead, aligned_iff]

/-- A write fails exactly where it is misaligned. -/
theorem memWrite_eq_none {s : State} {a : Addr} {n : Width} {v : BitVec (8 * n.bytes)} :
    s.memWrite a n v = none ↔ a.toNat % n.bytes ≠ 0 := by
  simp [State.memWrite, aligned_iff]

/-- Settles O24: where the read is aligned it is the little-endian value of its bytes. -/
theorem memoryReadRule : Obligations.MemoryReadRule := by
  intro s a n
  refine ⟨memRead_eq_none, fun v hv j hj => ?_⟩
  obtain ⟨-, rfl⟩ := memRead_eq_some.1 hv
  exact readLE_byte s n.bytes a j hj

/-- Two values of `n` bytes are equal where their bytes are. -/
theorem eq_of_bytes_eq {n : Nat} {x y : BitVec (8 * n)}
    (h : ∀ j, j < n → x.extractLsb' (8 * j) 8 = y.extractLsb' (8 * j) 8) : x = y := by
  apply BitVec.eq_of_getLsbD_eq
  intro i hi
  have hbyte := congrArg (BitVec.getLsbD · (i % 8)) (h (i / 8) (by omega))
  simpa [Nat.mod_lt, Nat.div_add_mod] using hbyte

/-- Byte `a + j` after a write holds byte `j` of the value. -/
theorem byteAt_writeLE_inside (s : State) (a : Addr) {n j : Nat} (v : BitVec (8 * n)) (hn : n ≤ 65536) (hj : j < n) :
    (s.writeLE a n v).byteAt (a + BitVec.ofNat 16 j) = v.extractLsb' (8 * j) 8 := by
  rw [byteAt_writeLE n s a _ v hn, offset_add (by omega), if_pos hj]

/-- A write leaves every byte outside its addresses. -/
theorem sameMemoryBut_writeLE (s : State) (a : Addr) {n : Nat} (v : BitVec (8 * n)) (hn : n ≤ 65536) :
    SameMemoryBut s (s.writeLE a n v) ((List.range n).map fun j => a + BitVec.ofNat 16 j) := by
  intro b hb
  rw [byteAt_writeLE n s a b v hn, if_neg fun h => hb (mem_addresses_of_offset h)]

/-- What is written is read back. -/
theorem readLE_writeLE (s : State) (a : Addr) {n : Nat} (v : BitVec (8 * n)) (hn : n ≤ 65536) :
    (s.writeLE a n v).readLE a n = v := by
  refine eq_of_bytes_eq fun j hj => ?_
  rw [readLE_byte _ n a j hj, byteAt_writeLE_inside s a v hn hj]

/-- A stored byte empties its slot alone. -/
theorem slotsEmptied_storeByte (s : State) (a : Addr) (v : Byte) : SlotsEmptied s (s.storeByte a v) [slotOf a] := by
  intro i
  simp [tableFind_erase]

theorem slotsEmptied_trans {s t u : State} {first rest : List Nat} (h : SlotsEmptied s t first)
    (h' : SlotsEmptied t u rest) : SlotsEmptied s u (first ++ rest) := by
  intro i
  rw [h' i, h i]
  by_cases hrest : i ∈ rest <;> simp [hrest]

/-- A write empties the slots of its addresses alone. -/
theorem slotsEmptied_writeLE (n : Nat) :
    ∀ (s : State) (a : Addr) (v : BitVec (8 * n)),
      SlotsEmptied s (s.writeLE a n v) ((List.range n).map fun j => slotOf (a + BitVec.ofNat 16 j)) := by
  induction n with
  | zero => exact fun s a v i => rfl
  | succ n ih =>
    intro s a v
    rw [addresses_succ slotOf]
    exact slotsEmptied_trans (slotsEmptied_storeByte s a _) (ih _ _ _)

/-- Settles O25: an aligned write stores the bytes of its value one by one, each emptying its slot. -/
theorem memoryWriteRule : Obligations.MemoryWriteRule := by
  intro s a n v
  refine ⟨memWrite_eq_none, fun t ht => ?_⟩
  obtain ⟨haligned, rfl⟩ := memWrite_eq_some.1 ht
  have hn : n.bytes ≤ 65536 := (width_bytes_le n).trans (by decide)
  have hback : v = (s.writeLE a n.bytes v).readLE a n.bytes := (readLE_writeLE s a v hn).symm
  obtain ⟨hregs, hsr, hsp, hpc, hcycles, hphase, hhalt, hpoll, hstop, hloaded, henv⟩ := writeLE_same n.bytes s a v
  refine ⟨fun j hj => byteAt_writeLE_inside s a v hn hj, sameMemoryBut_writeLE s a v hn, slotsEmptied_writeLE _ s a v,
    memRead_eq_some.2 ⟨haligned, hback⟩, fun j => ?_, hsr, hsp, hpc,
    ⟨hcycles, hphase, hhalt, hpoll, hstop, hloaded⟩, henv⟩
  simp only [State.getReg, hregs]

end Sys2Proof.Proofs

namespace Sys2Proof.Proofs

open Sys2Proof Sys2Proof.Machine Sys2Proof.Statements Sys2Proof.Laws

/-! ## Fields and bits of a word as numbers (30_encoding R82) -/

/-- A field of a word whose number is known. -/
theorem field_eq {w : Word16} {m low n : Nat} {v : BitVec n} (hw : w.toNat = m) (h : m / 2 ^ low % 2 ^ n = v.toNat) :
    w.extractLsb' low n = v := by
  rw [← BitVec.toNat_inj, toNat_field, hw, h]

/-- What a field says of the number of its word. -/
theorem field_number {w : Word16} {low n : Nat} {v : BitVec n} (h : w.extractLsb' low n = v) :
    w.toNat / 2 ^ low % 2 ^ n = v.toNat := by
  rw [← h, toNat_field]

theorem getLsbD_eq_decide {n : Nat} (x : BitVec n) (i : Nat) : x.getLsbD i = decide (x.toNat / 2 ^ i % 2 = 1) := by
  rw [← BitVec.testBit_toNat, Nat.testBit_eq_decide_div_mod_eq]

/-- What a clear bit says of the number of its word. -/
theorem bit_clear_number {w : Word16} {i : Nat} (h : w.getLsbD i = false) : w.toNat / 2 ^ i % 2 = 0 := by
  rw [getLsbD_eq_decide, decide_eq_false_iff_not] at h
  omega

/-! ## The fields of a word built in each format -/

theorem fields_formatZ (k : Byte) :
    fieldMajor (formatZ k) = 0x0#4 ∧ fieldHi (formatZ k) = 0x0#4 ∧ fieldK8 (formatZ k) = k := by
  have hw := toNat_formatZ k
  exact ⟨field_eq hw (by bv_omega), field_eq hw (by bv_omega), field_eq hw (by omega)⟩

theorem fields_formatT (k : Byte) :
    fieldMajor (formatT k) = 0x0#4 ∧ fieldHi (formatT k) = 0x1#4 ∧ fieldK8 (formatT k) = k := by
  have hw := toNat_formatT k
  exact ⟨field_eq hw (by bv_omega), field_eq hw (by bv_omega), field_eq hw (by omega)⟩

theorem fields_formatF (c : BitVec 4) (b : BitNo) :
    fieldMajor (formatF c b) = 0x0#4 ∧ fieldHi (formatF c b) = c ∧ fieldZeroF (formatF c b) = 0#5 ∧
      fieldFlagF (formatF c b) = b := by
  have hw := toNat_formatF c b
  exact ⟨field_eq hw (by bv_omega), field_eq hw (by omega), field_eq hw (by bv_omega), field_eq hw (by omega)⟩

theorem fields_formatL (c : BitVec 4) :
    fieldMajor (formatL c) = 0x0#4 ∧ fieldHi (formatL c) = c ∧ fieldK8 (formatL c) = 0x00#8 := by
  have hw := toNat_formatL c
  exact ⟨field_eq hw (by bv_omega), field_eq hw (by omega), field_eq hw (by bv_omega)⟩

theorem fields_formatU (c f : BitVec 4) (r : Reg) :
    fieldMajor (formatU c f r) = 0x0#4 ∧ fieldHi (formatU c f r) = c ∧ fieldMid (formatU c f r) = f ∧
      fieldLo (formatU c f r) = r := by
  have hw := toNat_formatU c f r
  exact ⟨field_eq hw (by bv_omega), field_eq hw (by omega), field_eq hw (by omega), field_eq hw (by omega)⟩

theorem fields_formatB (c : BitVec 4) (b : BitNo) (r : Reg) :
    fieldMajor (formatB c b r) = 0x0#4 ∧ fieldHi (formatB c b r) = c ∧ (formatB c b r).getLsbD 7 = false ∧
      fieldBitB (formatB c b r) = b ∧ fieldLo (formatB c b r) = r := by
  have hw := toNat_formatB c b r
  refine ⟨field_eq hw (by bv_omega), field_eq hw (by omega), ?_, field_eq hw (by omega), field_eq hw (by omega)⟩
  rw [getLsbD_eq_decide, decide_eq_false_iff_not]
  omega

theorem fields_formatR (f : BitVec 4) (d r : Reg) :
    fieldMajor (formatR f d r) = 0x1#4 ∧ fieldHi (formatR f d r) = f ∧ fieldMid (formatR f d r) = d ∧
      fieldLo (formatR f d r) = r := by
  have hw := toNat_formatR f d r
  exact ⟨field_eq hw (by bv_omega), field_eq hw (by omega), field_eq hw (by omega), field_eq hw (by omega)⟩

theorem fields_formatI (c : BitVec 4) (d : Reg) (k : Byte) :
    fieldMajor (formatI c d k) = c ∧ fieldHi (formatI c d k) = d ∧ fieldK8 (formatI c d k) = k := by
  have hw := toNat_formatI c d k
  exact ⟨field_eq hw (by omega), field_eq hw (by omega), field_eq hw (by omega)⟩

theorem fields_formatJ (k : BitVec 12) : fieldMajor (formatJ k) = 0xC#4 ∧ fieldK12 (formatJ k) = k := by
  have hw := toNat_formatJ k
  exact ⟨field_eq hw (by bv_omega), field_eq hw (by omega)⟩

theorem fields_formatC (t : BitVec 1) (b : BitNo) (k : Byte) :
    fieldMajor (formatC t b k) = 0xE#4 ∧ (formatC t b k).getLsbD 11 = t.getLsbD 0 ∧ fieldFlagC (formatC t b k) = b ∧
      fieldK8 (formatC t b k) = k := by
  have hw := toNat_formatC t b k
  refine ⟨field_eq hw (by bv_omega), ?_, field_eq hw (by omega), field_eq hw (by omega)⟩
  rw [getLsbD_eq_decide, getLsbD_eq_decide, decide_eq_decide]
  omega

/-! ## Decoding what was encoded -/

/-- Settles O1: in each format the decoder finds the codes of the opcode map and the operands where the encoder wrote
them. -/
theorem decodeOfEncodeIsIdentity : Obligations.DecodeOfEncodeIsIdentity := by
  intro i hwf
  cases i with
  | nop | brk | ret => simp [encode, decode, decodeMajor0, decodeFormatZ, fields_formatZ]
  | trap k => simp [encode, decode, decodeMajor0, fields_formatT]
  | sef b | clf b =>
    have hb : flagNumberOk b = true := hwf
    simp [encode, decode, decodeMajor0, legalIf, fields_formatF, hb]
  | jmp | call => simp [encode, decode, decodeMajor0, legalIf, fields_formatL]
  | push r | pop r => simp [encode, decode, decodeMajor0, decodeStack, fields_formatU]
  | lsl d | lsr d | asr d | rol d | ror d => simp [encode, decode, decodeMajor0, decodeShift, fields_formatU]
  | sbrc b r | sbrs b r =>
    simp [encode, decode, decodeMajor0, legalIf, fields_formatB, -BitVec.getLsbD_eq_getElem]
  | add d r | adc d r | sub d r | sbc d r | cp d r | and d r | or d r | xor d r | mov d r | cpse d r =>
    simp [encode, decode, decodeMajor1, fields_formatR]
  | ldb d r | stb d r =>
    have hr : pairNumberOk r = true := hwf
    simp [encode, decode, decodeMajor1, legalIf, fields_formatR, hr]
  | ldw d r | stw d r =>
    have hpairs : (pairNumberOk d && pairNumberOk r) = true := hwf
    simp [encode, decode, decodeMajor1, legalIf, fields_formatR, hpairs]
  | ldi d k | addi d k | subi d k | cpi d k | andi d k | ori d k => simp [encode, decode, fields_formatI]
  | rjmp k => simp [encode, decode, fields_formatJ]
  | brbc b k | brbs b k =>
    have hb : flagNumberOk b = true := hwf
    simp [encode, decode, decodeMajorE, legalIf, fields_formatC, hb, -BitVec.getLsbD_eq_getElem]

/-- Settles O5: each of the ten words is what the encoder writes for its instruction. -/
theorem writtenWordsDecode : Obligations.WrittenWordsDecode :=
  ⟨decodeOfEncodeIsIdentity .ret rfl, decodeOfEncodeIsIdentity (.trap 2#8) rfl, decodeOfEncodeIsIdentity (.sef 6#3) rfl,
    decodeOfEncodeIsIdentity .call rfl, decodeOfEncodeIsIdentity (.ror 15#4) rfl,
    decodeOfEncodeIsIdentity (.sbrc 3#3 5#4) rfl, decodeOfEncodeIsIdentity (.stw 4#4 2#4) rfl,
    decodeOfEncodeIsIdentity (.ldi 10#4 0x7F#8) rfl, decodeOfEncodeIsIdentity (.rjmp 0x800#12) rfl,
    decodeOfEncodeIsIdentity (.brbc 6#3 0xFE#8) rfl⟩

/-! ## A word is made of its fields, by each format -/

theorem formatZ_of_fields {w : Word16} {k : Byte} (hmajor : fieldMajor w = 0x0#4) (hhi : fieldHi w = 0x0#4)
    (hk : fieldK8 w = k) : formatZ k = w := by
  have hmajor := field_number hmajor
  have hhi := field_number hhi
  have hk := field_number hk
  apply BitVec.eq_of_toNat_eq
  rw [toNat_formatZ]
  bv_omega

theorem formatT_of_fields {w : Word16} (hmajor : fieldMajor w = 0x0#4) (hhi : fieldHi w = 0x1#4) :
    formatT (fieldK8 w) = w := by
  have hmajor := field_number hmajor
  have hhi := field_number hhi
  have hk := field_number (rfl : fieldK8 w = _)
  apply BitVec.eq_of_toNat_eq
  rw [toNat_formatT]
  bv_omega

theorem formatF_of_fields {w : Word16} {c : BitVec 4} (hmajor : fieldMajor w = 0x0#4) (hhi : fieldHi w = c)
    (hzero : fieldZeroF w = 0#5) : formatF c (fieldFlagF w) = w := by
  have hmajor := field_number hmajor
  have hhi := field_number hhi
  have hzero := field_number hzero
  have hflag := field_number (rfl : fieldFlagF w = _)
  apply BitVec.eq_of_toNat_eq
  rw [toNat_formatF]
  bv_omega

theorem formatL_of_fields {w : Word16} {c : BitVec 4} (hmajor : fieldMajor w = 0x0#4) (hhi : fieldHi w = c)
    (hk : fieldK8 w = 0#8) : formatL c = w := by
  have hmajor := field_number hmajor
  have hhi := field_number hhi
  have hk := field_number hk
  apply BitVec.eq_of_toNat_eq
  rw [toNat_formatL]
  bv_omega

theorem formatU_of_fields {w : Word16} {c f : BitVec 4} (hmajor : fieldMajor w = 0x0#4) (hhi : fieldHi w = c)
    (hmid : fieldMid w = f) : formatU c f (fieldLo w) = w := by
  have hmajor := field_number hmajor
  have hhi := field_number hhi
  have hmid := field_number hmid
  have hlo := field_number (rfl : fieldLo w = _)
  apply BitVec.eq_of_toNat_eq
  rw [toNat_formatU]
  bv_omega

theorem formatB_of_fields {w : Word16} {c : BitVec 4} (hmajor : fieldMajor w = 0x0#4) (hhi : fieldHi w = c)
    (hclear : w.getLsbD 7 = false) : formatB c (fieldBitB w) (fieldLo w) = w := by
  have hmajor := field_number hmajor
  have hhi := field_number hhi
  have hclear := bit_clear_number hclear
  have hbit := field_number (rfl : fieldBitB w = _)
  have hlo := field_number (rfl : fieldLo w = _)
  apply BitVec.eq_of_toNat_eq
  rw [toNat_formatB]
  bv_omega

theorem formatR_of_fields {w : Word16} {f : BitVec 4} (hmajor : fieldMajor w = 0x1#4) (hhi : fieldHi w = f) :
    formatR f (fieldMid w) (fieldLo w) = w := by
  have hmajor := field_number hmajor
  have hhi := field_number hhi
  have hmid := field_number (rfl : fieldMid w = _)
  have hlo := field_number (rfl : fieldLo w = _)
  apply BitVec.eq_of_toNat_eq
  rw [toNat_formatR]
  bv_omega

theorem formatI_of_fields {w : Word16} {c : BitVec 4} (hmajor : fieldMajor w = c) :
    formatI c (fieldHi w) (fieldK8 w) = w := by
  have hmajor := field_number hmajor
  have hhi := field_number (rfl : fieldHi w = _)
  have hk := field_number (rfl : fieldK8 w = _)
  apply BitVec.eq_of_toNat_eq
  rw [toNat_formatI]
  bv_omega

theorem formatJ_of_fields {w : Word16} (hmajor : fieldMajor w = 0xC#4) : formatJ (fieldK12 w) = w := by
  have hmajor := field_number hmajor
  have hk := field_number (rfl : fieldK12 w = _)
  apply BitVec.eq_of_toNat_eq
  rw [toNat_formatJ]
  bv_omega

theorem formatC_of_fields {w : Word16} {t : BitVec 1} (hmajor : fieldMajor w = 0xE#4)
    (ht : w.getLsbD 11 = t.getLsbD 0) : formatC t (fieldFlagC w) (fieldK8 w) = w := by
  have hmajor := field_number hmajor
  have hflag := field_number (rfl : fieldFlagC w = _)
  have hk := field_number (rfl : fieldK8 w = _)
  rw [getLsbD_eq_decide, getLsbD_eq_decide, decide_eq_decide] at ht
  apply BitVec.eq_of_toNat_eq
  rw [toNat_formatC]
  bv_omega

/-! ## Encoding what was decoded -/

theorem decodeFormatZ_encode {w : Word16} {i : Instr} (hmajor : fieldMajor w = 0x0#4) (hhi : fieldHi w = 0x0#4)
    (h : decodeFormatZ w = .legal i) : encode i = w := by
  unfold decodeFormatZ at h
  split at h <;> cases h <;> exact formatZ_of_fields hmajor hhi ‹_›

theorem decodeStack_encode {w : Word16} {i : Instr} (hmajor : fieldMajor w = 0x0#4) (hhi : fieldHi w = 0x6#4)
    (h : decodeStack w = .legal i) : encode i = w := by
  unfold decodeStack at h
  split at h <;> cases h <;> exact formatU_of_fields hmajor hhi ‹_›

theorem decodeShift_encode {w : Word16} {i : Instr} (hmajor : fieldMajor w = 0x0#4) (hhi : fieldHi w = 0x7#4)
    (h : decodeShift w = .legal i) : encode i = w := by
  unfold decodeShift at h
  split at h <;> cases h <;> exact formatU_of_fields hmajor hhi ‹_›

theorem decodeMajor0_encode {w : Word16} {i : Instr} (hmajor : fieldMajor w = 0x0#4) (h : decodeMajor0 w = .legal i) :
    encode i = w := by
  unfold decodeMajor0 at h
  split at h
  case h_1 hhi => exact decodeFormatZ_encode hmajor hhi h
  case h_2 hhi => cases h; exact formatT_of_fields hmajor hhi
  case h_3 hhi | h_4 hhi =>
    obtain ⟨hok, rfl⟩ := legalIf_eq_legal h
    exact formatF_of_fields hmajor hhi (beq_iff_eq.1 (Bool.and_eq_true_iff.1 hok).1)
  case h_5 hhi | h_6 hhi =>
    obtain ⟨hok, rfl⟩ := legalIf_eq_legal h
    exact formatL_of_fields hmajor hhi (beq_iff_eq.1 hok)
  case h_7 hhi => exact decodeStack_encode hmajor hhi h
  case h_8 hhi => exact decodeShift_encode hmajor hhi h
  case h_9 hhi | h_10 hhi =>
    obtain ⟨hok, rfl⟩ := legalIf_eq_legal h
    exact formatB_of_fields hmajor hhi ((Bool.not_eq_true' _).mp hok)
  case h_11 => cases h

theorem decodeMajor1_encode {w : Word16} {i : Instr} (hmajor : fieldMajor w = 0x1#4) (h : decodeMajor1 w = .legal i) :
    encode i = w := by
  unfold decodeMajor1 at h
  split at h
  case h_11 | h_12 | h_13 | h_14 =>
    obtain ⟨-, rfl⟩ := legalIf_eq_legal h
    exact formatR_of_fields hmajor ‹_›
  all_goals cases h <;> exact formatR_of_fields hmajor ‹_›

theorem decodeMajorE_encode {w : Word16} {i : Instr} (hmajor : fieldMajor w = 0xE#4) (h : decodeMajorE w = .legal i) :
    encode i = w := by
  obtain ⟨-, rfl⟩ := legalIf_eq_legal h
  split
  · exact formatC_of_fields hmajor ‹_›
  · exact formatC_of_fields hmajor (Bool.eq_false_iff.2 ‹_›)

/-- Settles O2: by the opcode map, each case in its format; that what is decoded is well formed is `decode_wf`. -/
theorem legalWordsEncodeBack : Obligations.LegalWordsEncodeBack := by
  intro w i h
  refine ⟨decode_wf h, ?_⟩
  unfold decode at h
  split at h
  case h_1 hmajor => exact decodeMajor0_encode hmajor h
  case h_2 hmajor => exact decodeMajor1_encode hmajor h
  case h_9 hmajor => cases h; exact formatJ_of_fields hmajor
  case h_10 hmajor => exact decodeMajorE_encode hmajor h
  all_goals cases h <;> exact formatI_of_fields ‹_›

/-! ## The opcode list (30_encoding R89) -/

/-- The word of a well-formed instruction selects that instruction's row. -/
theorem encode_selects_row (i : Instr) : EncodeSelectsRow.Statement i := by
  cases i with
  | nop => exact EncodeSelectsRow.nop
  | brk => exact EncodeSelectsRow.brk
  | ret => exact EncodeSelectsRow.ret
  | trap k => exact EncodeSelectsRow.trap k
  | sef b => exact EncodeSelectsRow.sef b
  | clf b => exact EncodeSelectsRow.clf b
  | jmp => exact EncodeSelectsRow.jmp
  | call => exact EncodeSelectsRow.call
  | push r => exact EncodeSelectsRow.push r
  | pop d => exact EncodeSelectsRow.pop d
  | lsl d => exact EncodeSelectsRow.lsl d
  | lsr d => exact EncodeSelectsRow.lsr d
  | asr d => exact EncodeSelectsRow.asr d
  | rol d => exact EncodeSelectsRow.rol d
  | ror d => exact EncodeSelectsRow.ror d
  | sbrc b r => exact EncodeSelectsRow.sbrc b r
  | sbrs b r => exact EncodeSelectsRow.sbrs b r
  | add d r => exact EncodeSelectsRow.add d r
  | adc d r => exact EncodeSelectsRow.adc d r
  | sub d r => exact EncodeSelectsRow.sub d r
  | sbc d r => exact EncodeSelectsRow.sbc d r
  | cp d r => exact EncodeSelectsRow.cp d r
  | and d r => exact EncodeSelectsRow.and d r
  | or d r => exact EncodeSelectsRow.or d r
  | xor d r => exact EncodeSelectsRow.xor d r
  | mov d r => exact EncodeSelectsRow.mov d r
  | cpse d r => exact EncodeSelectsRow.cpse d r
  | ldb d r => exact EncodeSelectsRow.ldb d r
  | stb d r => exact EncodeSelectsRow.stb d r
  | ldw d r => exact EncodeSelectsRow.ldw d r
  | stw d r => exact EncodeSelectsRow.stw d r
  | ldi d k => exact EncodeSelectsRow.ldi d k
  | addi d k => exact EncodeSelectsRow.addi d k
  | subi d k => exact EncodeSelectsRow.subi d k
  | cpi d k => exact EncodeSelectsRow.cpi d k
  | andi d k => exact EncodeSelectsRow.andi d k
  | ori d k => exact EncodeSelectsRow.ori d k
  | rjmp k => exact EncodeSelectsRow.rjmp k
  | brbc b k => exact EncodeSelectsRow.brbc b k
  | brbs b k => exact EncodeSelectsRow.brbs b k

/-- The instruction of `i`'s row with the operands that `w` holds in `i`'s format. -/
def withOperandsOf (w : Word16) : Instr → Instr
  | .nop => .nop
  | .brk => .brk
  | .ret => .ret
  | .trap _ => .trap (fieldK8 w)
  | .sef _ => .sef (fieldFlagF w)
  | .clf _ => .clf (fieldFlagF w)
  | .jmp => .jmp
  | .call => .call
  | .push _ => .push (fieldLo w)
  | .pop _ => .pop (fieldLo w)
  | .lsl _ => .lsl (fieldLo w)
  | .lsr _ => .lsr (fieldLo w)
  | .asr _ => .asr (fieldLo w)
  | .rol _ => .rol (fieldLo w)
  | .ror _ => .ror (fieldLo w)
  | .sbrc _ _ => .sbrc (fieldBitB w) (fieldLo w)
  | .sbrs _ _ => .sbrs (fieldBitB w) (fieldLo w)
  | .add _ _ => .add (fieldMid w) (fieldLo w)
  | .adc _ _ => .adc (fieldMid w) (fieldLo w)
  | .sub _ _ => .sub (fieldMid w) (fieldLo w)
  | .sbc _ _ => .sbc (fieldMid w) (fieldLo w)
  | .cp _ _ => .cp (fieldMid w) (fieldLo w)
  | .and _ _ => .and (fieldMid w) (fieldLo w)
  | .or _ _ => .or (fieldMid w) (fieldLo w)
  | .xor _ _ => .xor (fieldMid w) (fieldLo w)
  | .mov _ _ => .mov (fieldMid w) (fieldLo w)
  | .cpse _ _ => .cpse (fieldMid w) (fieldLo w)
  | .ldb _ _ => .ldb (fieldMid w) (fieldLo w)
  | .stb _ _ => .stb (fieldMid w) (fieldLo w)
  | .ldw _ _ => .ldw (fieldMid w) (fieldLo w)
  | .stw _ _ => .stw (fieldMid w) (fieldLo w)
  | .ldi _ _ => .ldi (fieldHi w) (fieldK8 w)
  | .addi _ _ => .addi (fieldHi w) (fieldK8 w)
  | .subi _ _ => .subi (fieldHi w) (fieldK8 w)
  | .cpi _ _ => .cpi (fieldHi w) (fieldK8 w)
  | .andi _ _ => .andi (fieldHi w) (fieldK8 w)
  | .ori _ _ => .ori (fieldHi w) (fieldK8 w)
  | .rjmp _ => .rjmp (fieldK12 w)
  | .brbc _ _ => .brbc (fieldFlagC w) (fieldK8 w)
  | .brbs _ _ => .brbs (fieldFlagC w) (fieldK8 w)

theorem rowOf_withOperandsOf (w : Word16) (i : Instr) : rowOf (withOperandsOf w i) = rowOf i := by
  cases i <;> rfl

/-- A field that the mask keeps whole is that of the match value. -/
theorem field_of_masked {w m v : Word16} (h : w &&& m = v) (low n : Nat) (hm : m.extractLsb' low n = BitVec.allOnes n) :
    w.extractLsb' low n = v.extractLsb' low n := by
  rw [← h, BitVec.extractLsb'_and, hm, BitVec.and_allOnes]

/-- A bit that the mask keeps is that of the match value. -/
theorem bit_of_masked {w m v : Word16} (h : w &&& m = v) (i : Nat) (hm : m.getLsbD i = true) :
    w.getLsbD i = v.getLsbD i := by
  rw [← h, BitVec.getLsbD_and, hm, Bool.and_true]

/-- A register field whose lowest bit is clear names a pair. -/
theorem pairNumberOk_field {w : Word16} {low : Nat} (h : w.getLsbD low = false) :
    pairNumberOk (w.extractLsb' low 4) = true := by
  simp only [pairNumberOk, BitVec.getLsbD_extractLsb', Nat.add_zero, h]
  rfl

/-- A word that selects the row of `i` is that of a well-formed instruction of this row: the mask fixes the opcode bits
and the constraint the rest. -/
theorem encode_withOperandsOf {w : Word16} {i : Instr} (h : (rowOf i).selects w = true) :
    (withOperandsOf w i).wf = true ∧ encode (withOperandsOf w i) = w := by
  obtain ⟨hmatch, hflag⟩ : w &&& (rowOf i).mask = (rowOf i).value ∧ (rowOf i).constraintOk w = true := by
    simpa [OpcodeRow.selects] using h
  cases i <;> dsimp only [rowOf] at hmatch
  case nop | brk | ret =>
    exact ⟨rfl, formatZ_of_fields (field_of_masked hmatch 12 4 rfl) (field_of_masked hmatch 8 4 rfl)
      (field_of_masked hmatch 0 8 rfl)⟩
  case trap k => exact ⟨rfl, formatT_of_fields (field_of_masked hmatch 12 4 rfl) (field_of_masked hmatch 8 4 rfl)⟩
  case sef b | clf b =>
    exact ⟨hflag, formatF_of_fields (field_of_masked hmatch 12 4 rfl) (field_of_masked hmatch 8 4 rfl)
      (field_of_masked hmatch 3 5 rfl)⟩
  case jmp | call =>
    exact ⟨rfl, formatL_of_fields (field_of_masked hmatch 12 4 rfl) (field_of_masked hmatch 8 4 rfl)
      (field_of_masked hmatch 0 8 rfl)⟩
  case push r | pop d | lsl d | lsr d | asr d | rol d | ror d =>
    exact ⟨rfl, formatU_of_fields (field_of_masked hmatch 12 4 rfl) (field_of_masked hmatch 8 4 rfl)
      (field_of_masked hmatch 4 4 rfl)⟩
  case sbrc b r | sbrs b r =>
    exact ⟨rfl, formatB_of_fields (field_of_masked hmatch 12 4 rfl) (field_of_masked hmatch 8 4 rfl)
      (bit_of_masked hmatch 7 rfl)⟩
  case add d r | adc d r | sub d r | sbc d r | cp d r | and d r | or d r | xor d r | mov d r | cpse d r =>
    exact ⟨rfl, formatR_of_fields (field_of_masked hmatch 12 4 rfl) (field_of_masked hmatch 8 4 rfl)⟩
  case ldb d r | stb d r =>
    exact ⟨pairNumberOk_field (bit_of_masked hmatch 0 rfl),
      formatR_of_fields (field_of_masked hmatch 12 4 rfl) (field_of_masked hmatch 8 4 rfl)⟩
  case ldw d r | stw d r =>
    exact ⟨Bool.and_eq_true_iff.2 ⟨pairNumberOk_field (bit_of_masked hmatch 4 rfl),
        pairNumberOk_field (bit_of_masked hmatch 0 rfl)⟩,
      formatR_of_fields (field_of_masked hmatch 12 4 rfl) (field_of_masked hmatch 8 4 rfl)⟩
  case ldi d k | addi d k | subi d k | cpi d k | andi d k | ori d k =>
    exact ⟨rfl, formatI_of_fields (field_of_masked hmatch 12 4 rfl)⟩
  case rjmp k => exact ⟨rfl, formatJ_of_fields (field_of_masked hmatch 12 4 rfl)⟩
  case brbc b k | brbs b k =>
    exact ⟨hflag, formatC_of_fields (field_of_masked hmatch 12 4 rfl) (bit_of_masked hmatch 11 rfl)⟩

/-- A word that selects the row of `i` decodes to the instruction of this row with the word's operands. -/
theorem decode_of_selects {w : Word16} {i : Instr} (h : (rowOf i).selects w = true) :
    decode w = .legal (withOperandsOf w i) := by
  obtain ⟨hwf, hencode⟩ := encode_withOperandsOf h
  have hdecode := decodeOfEncodeIsIdentity (withOperandsOf w i) hwf
  rwa [hencode] at hdecode

/-- What a word decodes to has the row the word selects. -/
theorem selects_of_decode {w : Word16} {i : Instr} (h : decode w = .legal i) : (rowOf i).selects w = true := by
  obtain ⟨hwf, rfl⟩ := legalWordsEncodeBack w i h
  exact encode_selects_row i hwf

/-- Settles O4: a selected row is that of what the word decodes to, and the other way round. -/
theorem opcodeRowsDecideDecoding : Obligations.OpcodeRowsDecideDecoding := by
  intro w
  refine ⟨fun i => selects_of_decode, fun i j hi hj => ?_, fun hillegal i => ?_, fun hnone => ?_⟩
  · have hsame : withOperandsOf w i = withOperandsOf w j :=
      Decoded.legal.inj ((decode_of_selects hi).symm.trans (decode_of_selects hj))
    rw [← rowOf_withOperandsOf w i, hsame, rowOf_withOperandsOf]
  · refine Bool.eq_false_iff.2 fun hselects => ?_
    exact nomatch hillegal.symm.trans (decode_of_selects hselects)
  · cases hdecode : decode w with
    | illegal => rfl
    | legal i => exact absurd (selects_of_decode hdecode) (Bool.eq_false_iff.1 (hnone i))

/-! ## Which words are ILLEGAL (30_encoding R93) -/

theorem legalIf_eq_illegal {ok : Bool} {i : Instr} : legalIf ok i = .illegal ↔ ok = false := by
  cases ok <;> simp [legalIf]

/-- Cases 10 and 11: a register field that names no pair is odd. -/
theorem pairNumberOk_eq_false {r : Reg} : pairNumberOk r = false ↔ r.toNat % 2 = 1 := by
  simp [pairNumberOk, getLsbD_eq_decide, -BitVec.getLsbD_eq_getElem]

/-- Cases 3 and 12: the one flag number no instruction may name. -/
theorem flagNumberOk_eq_false {b : BitNo} : flagNumberOk b = false ↔ b.toNat = 7 := by
  rw [flagNumberOk, bne_eq_false_iff_eq, ← BitVec.toNat_inj]
  rfl

/-- Case 2. -/
theorem decodeFormatZ_eq_illegal {w : Word16} :
    decodeFormatZ w = .illegal ↔ w.toNat % 0x100 ≠ 1 ∧ w.toNat % 0x100 ≠ 2 ∧ w.toNat % 0x100 ≠ 3 := by
  have hk : (fieldK8 w).toNat = w.toNat / 1 % 0x100 := toNat_field w 0 8
  unfold decodeFormatZ
  split <;> simp only [imp_false, reduceCtorEq, true_iff, false_iff] at * <;> bv_omega

/-- Case 5. -/
theorem decodeStack_eq_illegal {w : Word16} : decodeStack w = .illegal ↔ 2 ≤ w.toNat / 0x10 % 16 := by
  have hmid : (fieldMid w).toNat = w.toNat / 0x10 % 16 := toNat_field w 4 4
  unfold decodeStack
  split <;> simp only [imp_false, reduceCtorEq, true_iff, false_iff] at * <;> bv_omega

/-- Case 6. -/
theorem decodeShift_eq_illegal {w : Word16} : decodeShift w = .illegal ↔ 5 ≤ w.toNat / 0x10 % 16 := by
  have hmid : (fieldMid w).toNat = w.toNat / 0x10 % 16 := toNat_field w 4 4
  unfold decodeShift
  split <;> simp only [imp_false, reduceCtorEq, true_iff, false_iff] at * <;> bv_omega

/-- Case 3: SEF and CLF. -/
theorem formatF_refused {w : Word16} :
    (fieldZeroF w == 0#5 && flagNumberOk (fieldFlagF w)) = false ↔ w.toNat / 8 % 32 ≠ 0 ∨ w.toNat % 8 = 7 := by
  have hzero : (fieldZeroF w).toNat = w.toNat / 8 % 32 := toNat_field w 3 5
  have hflag : (fieldFlagF w).toNat = w.toNat / 1 % 8 := toNat_field w 0 3
  rw [Bool.and_eq_false_iff, beq_eq_false_iff_ne, flagNumberOk_eq_false]
  bv_omega

/-- Case 4: JMP and CALL. -/
theorem formatL_refused {w : Word16} : (fieldK8 w == 0#8) = false ↔ w.toNat % 0x100 ≠ 0 := by
  have hk : (fieldK8 w).toNat = w.toNat / 1 % 0x100 := toNat_field w 0 8
  rw [beq_eq_false_iff_ne]
  bv_omega

/-- Case 7: SBRC and SBRS. -/
theorem formatB_refused {w : Word16} : (!w.getLsbD 7) = false ↔ w.toNat / 0x80 % 2 = 1 := by
  rw [Bool.not_eq_false', getLsbD_eq_decide, decide_eq_true_iff]
  rfl

/-- A code past the `n` first ones. -/
theorem le_toNat_of_ne {c : BitVec 4} {n : Nat} (h : ∀ k < n, c ≠ BitVec.ofNat 4 k) : n ≤ c.toNat := by
  by_contra hlt
  exact h c.toNat (by omega) (by simp)

theorem decodeMajor0_eq_illegal {w : Word16} :
    decodeMajor0 w = .illegal ↔
      (w.toNat / 0x100 % 16 = 0x0 ∧ w.toNat % 0x100 ≠ 1 ∧ w.toNat % 0x100 ≠ 2 ∧ w.toNat % 0x100 ≠ 3) ∨
      ((w.toNat / 0x100 % 16 = 0x2 ∨ w.toNat / 0x100 % 16 = 0x3) ∧ (w.toNat / 8 % 32 ≠ 0 ∨ w.toNat % 8 = 7)) ∨
      ((w.toNat / 0x100 % 16 = 0x4 ∨ w.toNat / 0x100 % 16 = 0x5) ∧ w.toNat % 0x100 ≠ 0) ∨
      (w.toNat / 0x100 % 16 = 0x6 ∧ 2 ≤ w.toNat / 0x10 % 16) ∨
      (w.toNat / 0x100 % 16 = 0x7 ∧ 5 ≤ w.toNat / 0x10 % 16) ∨
      ((w.toNat / 0x100 % 16 = 0x8 ∨ w.toNat / 0x100 % 16 = 0x9) ∧ w.toNat / 0x80 % 2 = 1) ∨
      0xA ≤ w.toNat / 0x100 % 16 := by
  have hhi : (fieldHi w).toNat = w.toNat / 0x100 % 16 := toNat_field w 8 4
  rw [← hhi]
  unfold decodeMajor0
  split
  case h_1 h => rw [decodeFormatZ_eq_illegal]; simp [h]
  case h_2 h => simp [h]
  case h_3 h | h_4 h => rw [legalIf_eq_illegal, formatF_refused]; simp [h]
  case h_5 h | h_6 h => rw [legalIf_eq_illegal, formatL_refused]; simp [h]
  case h_7 h => rw [decodeStack_eq_illegal]; simp [h]
  case h_8 h => rw [decodeShift_eq_illegal]; simp [h]
  case h_9 h | h_10 h => rw [legalIf_eq_illegal, formatB_refused]; simp [h]
  case h_11 =>
    have hrest : 0xA ≤ (fieldHi w).toNat := le_toNat_of_ne fun k hk => by interval_cases k <;> assumption
    simp [hrest]

theorem decodeMajor1_eq_illegal {w : Word16} :
    decodeMajor1 w = .illegal ↔
      (w.toNat / 0x100 % 16 = 0xE ∨ w.toNat / 0x100 % 16 = 0xF) ∨
      (0xA ≤ w.toNat / 0x100 % 16 ∧ w.toNat / 0x100 % 16 ≤ 0xD ∧ w.toNat % 2 = 1) ∨
      ((w.toNat / 0x100 % 16 = 0xC ∨ w.toNat / 0x100 % 16 = 0xD) ∧ w.toNat / 0x10 % 2 = 1) := by
  have hhi : (fieldHi w).toNat = w.toNat / 0x100 % 16 := toNat_field w 8 4
  have hmid : (fieldMid w).toNat = w.toNat / 0x10 % 16 := toNat_field w 4 4
  have hlo : (fieldLo w).toNat = w.toNat / 1 % 16 := toNat_field w 0 4
  unfold decodeMajor1
  split
  case h_11 | h_12 => rw [legalIf_eq_illegal, pairNumberOk_eq_false]; bv_omega
  case h_13 | h_14 =>
    rw [legalIf_eq_illegal, Bool.and_eq_false_iff, pairNumberOk_eq_false, pairNumberOk_eq_false]
    bv_omega
  case h_15 =>
    have hrest : 0xE ≤ (fieldHi w).toNat := le_toNat_of_ne fun k hk => by interval_cases k <;> assumption
    simp only [true_iff]
    omega
  all_goals simp only [reduceCtorEq, false_iff]; bv_omega

theorem decodeMajorE_eq_illegal {w : Word16} : decodeMajorE w = .illegal ↔ w.toNat / 0x100 % 16 % 8 = 7 := by
  have hflag : (fieldFlagC w).toNat = w.toNat / 0x100 % 8 := toNat_field w 8 3
  rw [decodeMajorE, legalIf_eq_illegal, flagNumberOk_eq_false]
  omega

/-- Settles O3: the major opcode decides between the opcode map's parts, each of which refuses its own cases. -/
theorem illegalWordsAreTheTwelveCases : Obligations.IllegalWordsAreTheTwelveCases := by
  refine ⟨fun w => ?_, fun s => rfl⟩
  have hmajor : (fieldMajor w).toNat = w.toNat / 0x1000 % 16 := toNat_field w 12 4
  have hmajor' : (fieldMajor w).toNat = w.toNat / 0x1000 := by omega
  dsimp only
  rw [← hmajor']
  unfold decode
  split
  case h_1 h => rw [decodeMajor0_eq_illegal]; simp [h]
  case h_2 h => rw [decodeMajor1_eq_illegal]; simp [h]
  case h_10 h => rw [decodeMajorE_eq_illegal]; simp [h]
  case h_11 hC hE =>
    have hrest : 0x8 ≤ (fieldMajor w).toNat := le_toNat_of_ne fun k hk => by interval_cases k <;> assumption
    refine iff_of_true rfl (.inl ?_)
    rw [imp_false] at hC hE
    bv_omega
  all_goals simp [*]

/-! ## What the flags of a subtraction say of its operands (41_alu R142) -/

theorem toNat_carryByte (c : Bool) : (carryByte c).toNat = c.toNat := by cases c <;> rfl

/-- The difference as a number. -/
theorem toNat_subResult (a b : Byte) (bin : Bool) :
    (subResult a b bin).toNat = (a.toNat + 512 - b.toNat - bin.toNat) % 256 := by
  have hbin := toNat_carryByte bin
  have := bin.toNat_le
  rw [subResult]
  bv_omega

/-- Bit 7 of a byte is set in its upper half. -/
theorem getLsbD_seven (x : Byte) : x.getLsbD 7 = decide (128 ≤ x.toNat) := by
  rw [getLsbD_eq_decide, decide_eq_decide]
  omega

/-- The borrow out of bit 7: the difference is negative. -/
theorem borrowOut_subResult (a b : Byte) (bin : Bool) :
    borrowOut a b (subResult a b bin) 7 = decide (a.toNat < b.toNat + bin.toNat) := by
  have hr := toNat_subResult a b bin
  have := bin.toNat_le
  rw [Bool.eq_iff_iff]
  simp only [borrowOut, getLsbD_seven, Bool.or_eq_true, Bool.and_eq_true, Bool.not_eq_true', decide_eq_true_eq,
    decide_eq_false_iff_not]
  omega

/-- N ^ V of a subtraction is the majority of the signs of `a`, `not b` and the result. -/
theorem xor_subOverflow (a b r : Byte) :
    (r.getLsbD 7 ^^ subOverflow a b r) =
      ((a.getLsbD 7 && !b.getLsbD 7) || (a.getLsbD 7 && r.getLsbD 7) || (!b.getLsbD 7 && r.getLsbD 7)) := by
  unfold subOverflow
  cases a.getLsbD 7 <;> cases b.getLsbD 7 <;> cases r.getLsbD 7 <;> rfl

/-- S after a subtraction: the difference of the signed values is negative. -/
theorem sign_subResult (a b : Byte) (bin : Bool) :
    ((subResult a b bin).getLsbD 7 ^^ subOverflow a b (subResult a b bin)) = decide (a.toInt < b.toInt + bin.toNat) := by
  have hr := toNat_subResult a b bin
  have := bin.toNat_le
  rw [xor_subOverflow, Bool.eq_iff_iff, BitVec.toInt_eq_toNat_cond, BitVec.toInt_eq_toNat_cond]
  simp only [getLsbD_seven, Bool.or_eq_true, Bool.and_eq_true, Bool.not_eq_true', decide_eq_true_eq,
    decide_eq_false_iff_not]
  omega

/-- Z after a comparison: the operands are equal. -/
theorem subResult_eq_zero (a b : Byte) : (subResult a b false == 0#8) = (a == b) := by
  have hr := toNat_subResult a b false
  rw [Bool.eq_iff_iff, beq_iff_eq, beq_iff_eq]
  simp only [Bool.toNat_false] at hr
  bv_omega

/-- The flags a comparison leaves (41_alu R148). -/
theorem compareWith_flags (s : State) (d : Reg) (b : Byte) :
    getFlag (s.compareWith d b).sr flagZ = (s.getReg d == b) ∧
    getFlag (s.compareWith d b).sr flagC = decide ((s.getReg d).toNat < b.toNat) ∧
    getFlag (s.compareWith d b).sr flagS = decide ((s.getReg d).toInt < b.toInt) := by
  simp only [State.compareWith, advance_sr, setSr_sr, getFlag_subFlags]
  refine ⟨subResult_eq_zero _ _, ?_, ?_⟩
  · exact (borrowOut_subResult _ _ _).trans (by simp)
  · exact (sign_subResult _ _ _).trans (by simp)

/-! ## Conditional branches (43_control R186, R187) -/

theorem branch_pc (s : State) (taken : Bool) (k : Byte) :
    (s.branch taken k).pc = if taken then s.pc + 2#16 + (k.signExtend 16 <<< 1) else s.pc + 2#16 := by
  cases taken <;> rfl

theorem brbs_completes (s : State) (b : BitNo) (k : Byte) {taken : Bool} (h : getFlag s.sr b = taken) :
    Completes (.brbs b k) s fun u => u.pc = if taken then s.pc + 2#16 + (k.signExtend 16 <<< 1) else s.pc + 2#16 :=
  ⟨_, rfl, h ▸ branch_pc s _ k⟩

theorem brbc_completes (s : State) (b : BitNo) (k : Byte) {taken : Bool} (h : (!getFlag s.sr b) = taken) :
    Completes (.brbc b k) s fun u => u.pc = if taken then s.pc + 2#16 + (k.signExtend 16 <<< 1) else s.pc + 2#16 :=
  ⟨_, rfl, h ▸ branch_pc s _ k⟩

/-- Settles O33: Z, C and S after CP are equal, unsigned lower and signed less; BRBS is taken where its flag is set and BRBC
where it is clear. -/
theorem compareThenBranchDecidesOrder : Obligations.CompareThenBranchDecidesOrder := by
  intro s t d r k ht
  obtain rfl := next_inj ht
  obtain ⟨hZ, hC, hS⟩ := compareWith_flags s d (s.getReg r)
  refine ⟨brbs_completes _ _ _ hZ, brbs_completes _ _ _ hC, brbs_completes _ _ _ hS, brbc_completes _ _ _ ?_,
    brbc_completes _ _ _ ?_, brbc_completes _ _ _ ?_⟩
  · rw [hZ]; rfl
  · rw [hC, ← decide_not, decide_eq_decide, not_lt]
  · rw [hS, ← decide_not, decide_eq_decide, not_lt]

/-! ## The bytes of a placed instruction (30_encoding R81) -/

/-- A run of stored bytes empties the slots of its addresses alone. -/
theorem slotsEmptied_writeBytes (vs : List Byte) :
    ∀ (s : State) (a : Addr),
      SlotsEmptied s (s.writeBytes a vs) ((List.range vs.length).map fun j => slotOf (a + BitVec.ofNat 16 j)) := by
  induction vs with
  | nil => exact fun s a i => rfl
  | cons v vs ih =>
    intro s a
    rw [List.length_cons, addresses_succ slotOf]
    exact slotsEmptied_trans (slotsEmptied_storeByte s a v) (ih _ _)

/-- A run of stored bytes leaves every byte outside its addresses. -/
theorem sameMemoryBut_writeBytes (s : State) (a : Addr) (vs : List Byte) :
    SameMemoryBut s (s.writeBytes a vs) ((List.range vs.length).map fun j => a + BitVec.ofNat 16 j) :=
  fun b hb => byteAt_writeBytes_outside vs s a b (Nat.le_of_not_lt fun h => hb (mem_addresses_of_offset h))

theorem placeInstruction_same (s : State) (a : Addr) (nbits w : Nat) :
    SameButMemory s (s.placeInstruction a nbits w) := writeBytes_same _ s a

/-- The four bytes placed are those of the table's numbering. -/
theorem byteAt_placeInstruction (s : State) (a : Addr) (nbits w : Nat) {j : Nat} (hj : j < 4) :
    (s.placeInstruction a nbits w).byteAt (a + BitVec.ofNat 16 j) = tableByte nbits w j := by
  have hoffset : (a + BitVec.ofNat 16 j - a).toNat = j := offset_add (by omega)
  rw [State.placeInstruction, byteAt_writeBytes_inside _ s a _ (by rw [hoffset]; exact hj) (by simp), hoffset]
  interval_cases j <;> rfl

theorem toNat_tableByte (nbits w j : Nat) : (tableByte nbits w j).toNat = w % 2 ^ nbits / 256 ^ j % 256 :=
  BitVec.toNat_ofNat ..

theorem wordAt_placeInstruction (s : State) (a : Addr) (nbits w : Nat) :
    (s.placeInstruction a nbits w).wordAt a = wordOfBytes (tableByte nbits w 0) (tableByte nbits w 1) := by
  have hlow := byteAt_placeInstruction s a nbits w (j := 0) (by decide)
  have hhigh := byteAt_placeInstruction s a nbits w (j := 1) (by decide)
  rw [BitVec.add_zero] at hlow
  rw [State.wordAt, hlow, hhigh]

theorem decode_of_decodeTableWord {nbits w : Nat} {i : Instr} (h : decodeTableWord nbits w = some i) :
    decode (wordOfBytes (tableByte nbits w 0) (tableByte nbits w 1)) = .legal i := by
  unfold decodeTableWord at h
  split at h
  · rw [← Option.some.inj h]; assumption
  · cases h

/-- An even address and the next share a slot. -/
theorem slotOf_add_one {a : Addr} (h : a.toNat % 2 = 0) : slotOf (a + 1#16) = slotOf a := by
  rw [slotOf_eq, slotOf_eq]
  bv_omega

/-- The four addresses of a placed instruction. -/
theorem addresses_four {β : Type} (f : Addr → β) (a : Addr) :
    ((List.range 4).map fun j => f (a + BitVec.ofNat 16 j)) = [f a, f (a + 1#16), f (a + 2#16), f (a + 3#16)] := by
  simp [List.range_succ]

theorem sameMemoryBut_placeInstruction (s : State) (a : Addr) (nbits w : Nat) :
    SameMemoryBut s (s.placeInstruction a nbits w) [a, a + 1#16, a + 2#16, a + 3#16] :=
  addresses_four id a ▸ sameMemoryBut_writeBytes s a _

/-- At an even address the four bytes placed lie in two slots. -/
theorem slotsEmptied_placeInstruction (s : State) {a : Addr} (h : a.toNat % 2 = 0) (nbits w : Nat) :
    SlotsEmptied s (s.placeInstruction a nbits w) [slotOf a, slotOf (a + 2#16)] := by
  have hslots : SlotsEmptied s (s.placeInstruction a nbits w)
      [slotOf a, slotOf (a + 1#16), slotOf (a + 2#16), slotOf (a + 3#16)] :=
    addresses_four slotOf a ▸ slotsEmptied_writeBytes _ s a
  have hthree : slotOf (a + 3#16) = slotOf (a + 2#16) := by
    rw [slotOf_eq, slotOf_eq]
    bv_omega
  intro i
  rw [hslots i, slotOf_add_one h, hthree]
  simp

/-! ## The next step of a placed instruction (40_pipeline R112) -/

theorem pollDue_iff (s : State) : s.pollDue = true ↔ s.pollCount ≤ 1 := by
  rw [State.pollDue, beq_iff_eq]
  omega

/-- A boundary with no poll due and no tick pending leaves the stop request. -/
theorem atBoundary_quiet {s : State} (hpoll : s.pollDue = false) (htick : s.env.ticks = []) :
    s.atBoundary.stopRequest = s.stopRequest := by
  obtain ⟨hdue, -⟩ | ⟨-, e⟩ := atBoundary_cases s
  · exact absurd (hdue.symm.trans hpoll) nofun
  · rw [e, State.tickNow, htick]
    exact Bool.or_false _

/-- A fetch of an empty slot decodes the word in memory and fills the slot. -/
theorem fetch_of_empty {s : State} {a : Addr} (heven : a.toNat % 2 = 0) (hempty : tableFind s.icache (slotOf a) = none) :
    ∃ c, s.fetch a = some (decode (s.wordAt a), { s with icache := c }) := by
  cases hf : s.fetch a with
  | none => exact absurd heven ((fetch_eq_none s).1 hf)
  | some p =>
    obtain ⟨-, ⟨e, hfind, -⟩ | ⟨-, hd, ht⟩⟩ := fetch_cases hf
    · exact absurd (hempty.symm.trans hfind) nofun
    · exact ⟨_, congrArg some (Prod.ext hd ht)⟩

/-- What a step dispatches: the state after the boundary, fetched with cache `c` and counted. -/
def fetchedWith (s : State) (c : DecodeCache) : State :=
  { s.atBoundary with icache := c, cycles := s.cycles + 1, phase := .dispatching }

theorem fetchedWith_pc (s : State) (c : DecodeCache) : (fetchedWith s c).pc = s.pc := by
  obtain ⟨-, -, -, hpc, -⟩ := atBoundary_same s
  exact hpc

/-- Where the boundary goes on and the fetch gives `i`, a step is the dispatch of `i` in the counted state. -/
theorem step_of_fetch {s : State} {i : Instr} {c : DecodeCache} (hphase : s.phase = .fetching)
    (hgo : s.atBoundary.stopRequest = false)
    (hf : s.atBoundary.fetch s.pc = some (.legal i, { s.atBoundary with icache := c })) :
    step s = dispatch (.legal i) (fetchedWith s c) := by
  obtain ⟨-, -, -, hpc, -, -, hcycles, -⟩ := atBoundary_same s
  rw [step_fetching hphase hgo, fetchAndDispatch, pcGet_eq, hpc, hf, fetchedWith, ← hcycles]
  rfl

theorem dispatch_next {i : Instr} {s t : State} (h : exec i s = .next t) :
    dispatch (.legal i) s = .next (t.retire s.pc i) := by
  simp [dispatch, h]

theorem dispatch_refused {i : Instr} {s : State} {r : Refusal} (h : exec i s = .refused r) :
    dispatch (.legal i) s = .refused r := by
  simp [dispatch, h]

theorem withFetchWord_cycles (s : State) (nbits w : Nat) : (s.withFetchWord nbits w).cycles = s.cycles :=
  (placeInstruction_same s s.pc nbits w).cycles

theorem withFetchWord_pc (s : State) (nbits w : Nat) : (s.withFetchWord nbits w).pc = s.pc :=
  (placeInstruction_same s s.pc nbits w).pc

theorem withFetchWord_pollCount (s : State) (nbits w : Nat) :
    (s.withFetchWord nbits w).pollCount = if s.pollCount ≤ 1 then 2 else s.pollCount := by
  simp only [State.withFetchWord, State.readyToFetch, pollDue_iff, (placeInstruction_same s _ nbits w).pollCount]

/-- A placed core polls no host and has no tick at its next boundary. -/
theorem withFetchWord_goes (s : State) (nbits w : Nat) : (s.withFetchWord nbits w).atBoundary.stopRequest = false := by
  refine atBoundary_quiet (Bool.eq_false_iff.2 fun hdue => ?_) rfl
  have hcount := (pollDue_iff _).1 hdue
  rw [withFetchWord_pollCount] at hcount
  split at hcount <;> omega

/-- The slot at `pc` has been emptied, so the fetch there decodes the placed bytes. -/
theorem withFetchWord_fetch {s : State} {nbits w : Nat} {i : Instr} (heven : s.pc.toNat % 2 = 0)
    (hdecode : decodeTableWord nbits w = some i) :
    ∃ c, (s.withFetchWord nbits w).atBoundary.fetch s.pc =
      some (.legal i, { (s.withFetchWord nbits w).atBoundary with icache := c }) := by
  obtain ⟨-, -, -, -, hmem, hcache, -⟩ := atBoundary_same (s.withFetchWord nbits w)
  have hempty : tableFind (s.withFetchWord nbits w).icache (slotOf s.pc) = none :=
    (slotsEmptied_placeInstruction s heven nbits w (slotOf s.pc)).trans (if_pos List.mem_cons_self)
  have hword : (s.withFetchWord nbits w).atBoundary.wordAt s.pc =
      wordOfBytes (tableByte nbits w 0) (tableByte nbits w 1) :=
    (wordAt_congr hmem s.pc).trans (wordAt_placeInstruction s s.pc nbits w)
  obtain ⟨c, hfetch⟩ := fetch_of_empty (s := (s.withFetchWord nbits w).atBoundary) heven (hcache ▸ hempty)
  exact ⟨c, by rw [hfetch, hword, decode_of_decodeTableWord hdecode]⟩

/-- Settles O60: the placed bytes are fetched past the emptied slot, and the step dispatches what they decode to. -/
theorem placedInstructionRunsNext : Obligations.PlacedInstructionRunsNext := by
  intro s nbits w i heven hdecode
  obtain ⟨hregs, hsr, hsp, hpc, hcycles, -, -, -, -, -, henv⟩ := placeInstruction_same s s.pc nbits w
  obtain ⟨c, hfetch⟩ := withFetchWord_fetch heven hdecode
  have hgo := withFetchWord_goes s nbits w
  have hplaced : CodeReach s (s.withFetchWord nbits w) := CodeReach.frame (codeReach_writeBytes _ s s.pc) rfl rfl
  have hcode : CodeReach s (fetchedWith (s.withFetchWord nbits w) c) :=
    CodeReach.frame ((hplaced.trans (atBoundary_code _)).tail (.fetch hfetch)) rfl rfl
  have hat : (fetchedWith (s.withFetchWord nbits w) c).pc = s.pc := (fetchedWith_pc _ c).trans hpc
  have hstep := step_of_fetch rfl hgo (by rwa [withFetchWord_pc])
  rw [fetchedWith, withFetchWord_cycles] at hcode hat hstep
  refine ⟨fun j hj => ?_, sameMemoryBut_placeInstruction s s.pc nbits w, slotsEmptied_placeInstruction s heven nbits w,
    fun j => ?_, hsr, hsp, hpc, hcycles, rfl, rfl, rfl, rfl, withFetchWord_pollCount s nbits w, ?_, hgo, c, hcode.coherent,
    fun t ht => ?_, fun r hr => hstep.trans (dispatch_refused hr)⟩
  · exact (congrArg BitVec.toNat (byteAt_placeInstruction s s.pc nbits w hj)).trans (toNat_tableByte nbits w j)
  · exact congrArg (·[j.toNat]'j.isLt) hregs
  · exact congrArg (fun env : Environment => { env with ticks := [] }) henv
  · rw [hstep, dispatch_next ht, hat]

end Sys2Proof.Proofs

namespace Sys2Proof.Proofs

open Sys2Proof Sys2Proof.Machine Sys2Proof.Statements Sys2Proof.Laws

/-! ## The default advance (40_pipeline R118) -/

/-- TRAP stops the core, or returns to the next instruction whatever the host answered (45_system R221, R224, R225). -/
theorem trap_stops_or_advances {k : Byte} {s t : State} (h : execTrap k s = .next t) :
    (∃ c, t = s.stop c) ∨ t.pc = s.pc + 2#16 := by
  obtain ⟨-, e⟩ | ⟨-, e⟩ | ⟨-, e⟩ | ⟨-, e⟩ := execTrap_cases s k <;> rw [e] at h
  · exact .inl ⟨_, next_inj h⟩
  · obtain ⟨fd, data, value, errno, rfl⟩ := sysWrite_cases h
    exact .inr rfl
  · obtain ⟨fd, len, a, data, value, errno, rfl⟩ := sysRead_cases h
    exact .inr (congrArg (· + 2#16) (writeBytes_same data (s.callRead fd len) a).pc)
  · exact .inl ⟨_, next_inj h⟩

/-- An instruction that does not assign `pc` stops the core or goes on to the next word. -/
theorem exec_stops_or_advances {i : Instr} {s t : State} (hpc : assignsPc i = false) (h : exec i s = .next t) :
    (∃ c, t = s.stop c) ∨ t.pc = s.pc + 2#16 := by
  cases i with
  | rjmp | brbc | brbs | jmp | call | ret | cpse | sbrc | sbrs => cases hpc
  | brk => exact .inl ⟨_, next_inj h⟩
  | trap k => exact trap_stops_or_advances h
  | ldw d r =>
    change execLdw d r s = _ at h
    unfold execLdw at h
    split at h
    · exact .inl ⟨_, next_inj h⟩
    · exact .inr (congrArg State.pc (next_inj h))
  | stw d r =>
    change execStw d r s = _ at h
    unfold execStw at h
    split at h
    · exact .inl ⟨_, next_inj h⟩
    · rename_i hw
      obtain ⟨-, rfl⟩ := memWrite_eq_some.1 hw
      obtain rfl := next_inj h
      exact .inr (congrArg (· + 2#16) (writeLE_same _ _ _ _).pc)
  | add | adc | sub | sbc | cp | and | or | xor | mov | ldi | addi | subi | cpi | andi | ori | lsl | lsr | asr | rol | ror
  | sef | clf | nop | ldb | stb | push | pop => exact .inr (congrArg State.pc (next_inj h))

/-- Settles O15: an instruction that retires has not stopped the core, so it has gone on to the next word. -/
theorem defaultAdvanceIsOneWord : Obligations.DefaultAdvanceIsOneWord := by
  intro i s t hpc _ h hretires
  obtain ⟨c, rfl⟩ | e := exec_stops_or_advances hpc h
  · exact absurd rfl hretires
  · rw [e]
    exact BitVec.toNat_add ..

/-! ## The boundary (40_pipeline R120) -/

/-- At a `poll_count` above 0 a poll is due at 1 alone. -/
theorem pollDue_eq {s : State} (h : 0 < s.pollCount) : s.pollDue = decide (s.pollCount = 1) := by
  rw [Bool.eq_iff_iff, pollDue_iff, decide_eq_true_iff]
  omega

theorem tickNow_eq (s : State) : s.tickNow = s.env.ticks.head?.getD .none := by
  unfold State.tickNow
  cases s.env.ticks <;> rfl

theorem quits_eq (t : Tick) : t.quits = decide (t = .pending true) := by
  rcases t with _ | ⟨_ | _⟩ <;> rfl

/-- The answer of the host is the next of those to come, where one is (log 6). -/
theorem pollAnswer_of_cons {s : State} {q : Bool} {rest : List Bool} (h : s.env.pollAnswers = q :: rest) :
    s.pollAnswer = q := by
  rw [State.pollAnswer, h]

/-- A poll leaves the tick of its boundary to be called after it. -/
theorem callPoll_callTick_eq (s : State) :
    s.callPoll.callTick = { s with env := { s.env with
      pollAnswers := s.env.pollAnswers.tail
      ticks := s.env.ticks.tail
      hostCalls := (if s.tickNow = .none then [] else [.eventTick]) ++ .pollQuit :: s.env.hostCalls } } :=
  callTick_eq s.callPoll

/-- Settles O11: the answer is the one `poll_quit` gives in `s`, and each side of the poll's test is one equation of the
boundary. -/
theorem boundaryPollsAndTicks : Obligations.BoundaryPollsAndTicks := by
  intro s hpositive
  refine ⟨s.pollAnswer, fun q rest => pollAnswer_of_cons, ?_⟩
  rw [← pollDue_eq hpositive, ← tickNow_eq, ← quits_eq]
  obtain ⟨hdue, e⟩ | ⟨hdue, e⟩ := atBoundary_cases s
  · rw [e, hdue, callPoll_callTick_eq]
    simp
  · rw [e, hdue, callTick_eq]
    simp

/-- Settles O10: neither the boundary nor the external stop writes what is to be unchanged. -/
theorem externalStopAtTheBoundary : Obligations.ExternalStopAtTheBoundary := by
  intro s hphase hrequest
  obtain ⟨hregs, hsr, hsp, hpc, hmem, hcache, hcycles, -, -, hloaded⟩ := atBoundary_same s
  have hstep : step s = .next s.atBoundary.externalStop := by simp [step, hphase, hrequest]
  exact ⟨_, hstep, rfl, rfl, rfl, hpc, hcycles, fun j => congrArg (·[j.toNat]'j.isLt) hregs, hsr, hsp,
    fun a => congrArg (Memory.read · a) hmem, hcache, hloaded⟩

/-! ## The fetch with a coherent cache (40_pipeline R113 to R117) -/

/-- Settles O21: states that are equal without their caches differ in their caches alone. -/
theorem coherentFetchDecodesMemory : Obligations.CoherentFetchDecodesMemory := by
  intro s a hs heven
  obtain ⟨t, hfetch, ht, e⟩ := fetch_even hs heven
  exact ⟨t, hfetch, sameButCache_iff.2 e.symm, ht⟩

/-- After the boundary the fetch at an even `pc` gives the decode of the word in memory, and some coherent cache. -/
theorem atBoundary_fetch {s : State} (hs : CacheCoherent s) (heven : s.pc.toNat % 2 = 0) :
    ∃ c, s.atBoundary.fetch s.pc = some (decode (s.wordAt s.pc), { s.atBoundary with icache := c }) ∧
      CacheCoherent { s.atBoundary with icache := c } := by
  obtain ⟨-, -, -, -, hmem, -⟩ := atBoundary_same s
  obtain ⟨t, hfetch, hsame, ht⟩ := coherentFetchDecodesMemory s.atBoundary s.pc ((atBoundary_code s).coherent hs) heven
  rw [wordAt_congr hmem, hsame] at hfetch
  exact ⟨t.icache, hfetch, hsame ▸ ht⟩

/-- Settles O6: the cache is the one the fetch leaves, and the step is the dispatch of what was fetched and counted. -/
theorem stepRunsTheDecodedInstruction : Obligations.StepRunsTheDecodedInstruction := by
  intro s i hphase hgo heven hs hdecode
  obtain ⟨c, hfetch, hc⟩ := atBoundary_fetch hs heven
  rw [hdecode] at hfetch
  have hat : (fetchedWith s c).pc = s.pc := fetchedWith_pc s c
  have hstep : step s = dispatch (.legal i) (fetchedWith s c) := step_of_fetch hphase hgo hfetch
  refine ⟨c, coherent_of_same rfl rfl hc, hat, fun t ht => ?_, fun r hr => hstep.trans (dispatch_refused hr)⟩
  rw [hstep, dispatch_next (s := fetchedWith s c) ht, hat]

/-! ## Retirement and the entry of a run (40_pipeline R121, R123; 60_exceptions R248) -/

/-- Settles O7: where the core has not stopped, the mode decides between `observe` alone and `observe` and a stop. -/
theorem retirementAndSingleStep : Obligations.RetirementAndSingleStep := by
  intro s a i
  refine ⟨fun hhalted => if_pos hhalted, fun hrunning => ?_⟩
  obtain ⟨hhalted, -⟩ | ⟨-, hmode, e⟩ | ⟨-, hmode, e⟩ := retire_cases s a i
  · exact absurd hhalted hrunning
  · rw [e, hmode]
    exact ⟨rfl, rfl, rfl, rfl, fun _ => rfl, fun _ => rfl, rfl, rfl, fun _ => ⟨rfl, rfl⟩, nofun⟩
  · rw [e, hmode]
    exact ⟨rfl, rfl, rfl, rfl, fun _ => rfl, fun _ => rfl, rfl, rfl, nofun, fun _ => ⟨rfl, rfl⟩⟩

/-- The call of `run` to a HALTED core looks at `loaded` alone (80_host R317). -/
theorem harnessCall_run {s : State} (hphase : s.phase = .halted) (mode : RunMode) :
    harnessCall (.run mode) s = if s.loaded then .next (s.runEntry mode) else .refused .runBeforeLoad :=
  if_neg (not_not_intro hphase)

/-- Settles O56: with an image loaded the call is `RunEntry`, without one it is refused. -/
theorem runEntryResumes : Obligations.RunEntryResumes := by
  intro s mode hphase
  rw [harnessCall_run hphase]
  exact ⟨fun hloaded => if_pos hloaded, fun hunloaded => if_neg (by simp [hunloaded])⟩

end Sys2Proof.Proofs

namespace Sys2Proof.Proofs

open Sys2Proof Sys2Proof.Machine Sys2Proof.Statements Sys2Proof.Laws

/-! ## What the flags of an addition say of its operands (41_alu R141) -/

/-- The sum as a number. -/
theorem toNat_addResult (a b : Byte) (cin : Bool) :
    (addResult a b cin).toNat = (a.toNat + b.toNat + cin.toNat) % 256 := by
  rw [addResult, BitVec.toNat_add, BitVec.toNat_add, toNat_carryByte, Nat.mod_add_mod]

/-- Bit 3 of a byte is set in the upper half of the low nibble. -/
theorem getLsbD_three (x : Byte) : x.getLsbD 3 = decide (8 ≤ x.toNat % 16) := by
  rw [getLsbD_eq_decide, decide_eq_decide]
  omega

/-- The carry out of bit 7: the sum does not fit in a byte. -/
theorem carryOut_addResult (a b : Byte) (cin : Bool) :
    carryOut a b (addResult a b cin) 7 = decide (255 < a.toNat + b.toNat + cin.toNat) := by
  have hr := toNat_addResult a b cin
  have := cin.toNat_le
  rw [Bool.eq_iff_iff]
  simp only [carryOut, getLsbD_seven, Bool.or_eq_true, Bool.and_eq_true, Bool.not_eq_true', decide_eq_true_eq,
    decide_eq_false_iff_not]
  omega

/-- The carry out of bit 3: the sum of the low nibbles does not fit in a nibble. -/
theorem halfCarryOut_addResult (a b : Byte) (cin : Bool) :
    carryOut a b (addResult a b cin) 3 = decide (15 < a.toNat % 16 + b.toNat % 16 + cin.toNat) := by
  have hr := toNat_addResult a b cin
  have := cin.toNat_le
  rw [Bool.eq_iff_iff]
  simp only [carryOut, getLsbD_three, Bool.or_eq_true, Bool.and_eq_true, Bool.not_eq_true', decide_eq_true_eq,
    decide_eq_false_iff_not]
  omega

/-- V after an addition: the exact signed sum is not that of any byte. -/
theorem addOverflow_addResult (a b : Byte) (cin : Bool) :
    addOverflow a b (addResult a b cin) =
      decide (a.toInt + b.toInt + cin.toNat < -128 ∨ 127 < a.toInt + b.toInt + cin.toNat) := by
  have hr := toNat_addResult a b cin
  have := cin.toNat_le
  rw [Bool.eq_iff_iff, BitVec.toInt_eq_toNat_cond, BitVec.toInt_eq_toNat_cond]
  simp only [addOverflow, getLsbD_seven, Bool.or_eq_true, Bool.and_eq_true, Bool.not_eq_true', decide_eq_true_eq,
    decide_eq_false_iff_not]
  omega

/-- N ^ V of an addition is the majority of the signs of the operands and the result. -/
theorem xor_addOverflow (a b r : Byte) :
    (r.getLsbD 7 ^^ addOverflow a b r) =
      ((a.getLsbD 7 && b.getLsbD 7) || (a.getLsbD 7 && r.getLsbD 7) || (b.getLsbD 7 && r.getLsbD 7)) := by
  unfold addOverflow
  cases a.getLsbD 7 <;> cases b.getLsbD 7 <;> cases r.getLsbD 7 <;> rfl

/-- S after an addition: the exact signed sum is negative. -/
theorem sign_addResult (a b : Byte) (cin : Bool) :
    ((addResult a b cin).getLsbD 7 ^^ addOverflow a b (addResult a b cin)) =
      decide (a.toInt + b.toInt + cin.toNat < 0) := by
  have hr := toNat_addResult a b cin
  have := cin.toNat_le
  rw [xor_addOverflow, Bool.eq_iff_iff, BitVec.toInt_eq_toNat_cond, BitVec.toInt_eq_toNat_cond]
  simp only [getLsbD_seven, Bool.or_eq_true, Bool.and_eq_true, decide_eq_true_eq]
  omega

/-- C after `AddEval`, as the carry out of the sum. -/
theorem carry_addFlags (a b : Byte) (cin : Bool) (sr : Byte) :
    getFlag (addFlags a b cin sr) flagC = decide (255 < a.toNat + b.toNat + cin.toNat) :=
  (getFlag_addFlags a b cin sr flagC).trans (carryOut_addResult a b cin)

/-- Settles O31: each formula, evaluated at the sum modulo 256, is the reading of its flag. -/
theorem addFlagsReadArithmetically : Obligations.AddFlagsReadArithmetically := by
  intro a b cin sr
  have hH := (getFlag_addFlags a b cin sr flagH).trans (halfCarryOut_addResult a b cin)
  have hV := (getFlag_addFlags a b cin sr flagV).trans (addOverflow_addResult a b cin)
  have hS := (getFlag_addFlags a b cin sr flagS).trans (sign_addResult a b cin)
  rw [carry_addFlags, hH, hV, hS]
  simp only [decide_eq_true_eq, and_self]

/-! ## The half-borrow and the overflow of a subtraction (41_alu R142) -/

/-- The borrow out of bit 3: the difference of the low nibbles is negative. -/
theorem halfBorrowOut_subResult (a b : Byte) (bin : Bool) :
    borrowOut a b (subResult a b bin) 3 = decide (a.toNat % 16 < b.toNat % 16 + bin.toNat) := by
  have hr := toNat_subResult a b bin
  have := bin.toNat_le
  rw [Bool.eq_iff_iff]
  simp only [borrowOut, getLsbD_three, Bool.or_eq_true, Bool.and_eq_true, Bool.not_eq_true', decide_eq_true_eq,
    decide_eq_false_iff_not]
  omega

/-- V after a subtraction: the exact signed difference is not that of any byte. -/
theorem subOverflow_subResult (a b : Byte) (bin : Bool) :
    subOverflow a b (subResult a b bin) =
      decide (a.toInt - b.toInt - bin.toNat < -128 ∨ 127 < a.toInt - b.toInt - bin.toNat) := by
  have hr := toNat_subResult a b bin
  have := bin.toNat_le
  rw [Bool.eq_iff_iff, BitVec.toInt_eq_toNat_cond, BitVec.toInt_eq_toNat_cond]
  simp only [subOverflow, getLsbD_seven, Bool.or_eq_true, Bool.and_eq_true, Bool.not_eq_true', decide_eq_true_eq,
    decide_eq_false_iff_not]
  omega

/-- Settles O32: each formula, evaluated at the difference modulo 256, is the reading of its flag. -/
theorem subFlagsReadArithmetically : Obligations.SubFlagsReadArithmetically := by
  intro a b bin sr
  have hC := (getFlag_subFlags a b bin sr flagC).trans (borrowOut_subResult a b bin)
  have hH := (getFlag_subFlags a b bin sr flagH).trans (halfBorrowOut_subResult a b bin)
  have hV := (getFlag_subFlags a b bin sr flagV).trans (subOverflow_subResult a b bin)
  have hS := (getFlag_subFlags a b bin sr flagS).trans (sign_subResult a b bin)
  rw [hC, hH, hV, hS]
  simp only [decide_eq_true_eq, true_and]
  omega

/-! ## The encoding and the frame of 41_alu -/

/-- A well-formed instruction has the match and the mask of its row, and decodes back (30_encoding R89, R92). -/
theorem encoded_of_wf {i : Instr} (hwf : i.wf = true) : Encoded i (rowOf i).value (rowOf i).mask := by
  have hrow := encode_selects_row i hwf
  simp only [OpcodeRow.selects, Bool.and_eq_true, beq_iff_eq] at hrow
  exact ⟨hrow.1, decodeOfEncodeIsIdentity i hwf⟩

/-- A state that differs from `s` in registers alone. -/
theorem onlyRegisters_of_registers {s t : State}
    (hrest : t = { s with regs := t.regs, sr := t.sr, sp := t.sp, pc := t.pc }) : OnlyRegisters s t := by
  rw [hrest]
  exact ⟨fun _ => rfl, rfl, ⟨rfl, rfl, rfl, rfl, rfl, rfl⟩, rfl⟩

theorem getReg_writeResult (s : State) (d j : Reg) (r sr' : Byte) :
    (s.writeResult d r sr').getReg j = if j = d then r else s.getReg j := getReg_setReg s d j r

@[simp] theorem getReg_writeResult_self (s : State) (d : Reg) (r sr' : Byte) : (s.writeResult d r sr').getReg d = r :=
  getReg_setReg_self s d r

theorem aluFrame_writeResult (s : State) (d : Reg) (r sr' : Byte) : AluFrame d s (s.writeResult d r sr') :=
  ⟨fun j hj => (getReg_writeResult s d j r sr').trans (if_neg (List.ne_of_not_mem_cons hj)), rfl, rfl,
    onlyRegisters_of_registers rfl⟩

theorem aluFrame_moveInto (s : State) (d : Reg) (v : Byte) : AluFrame d s (s.moveInto d v) :=
  ⟨fun _ hj => getReg_setReg_other s (List.ne_of_not_mem_cons hj) v, rfl, rfl, onlyRegisters_of_registers rfl⟩

/-! ## ADD, ADC, ADDI (41_alu R144, R145, R154) -/

/-- `AddEval` writes the flags of R141's formulas and keeps the other two. -/
theorem addFlags_formulas (a b : Byte) (cin : Bool) (sr : Byte) :
    AddFlags a b (addResult a b cin) sr (addFlags a b cin sr) := by
  have h := getFlag_addFlags a b cin sr
  exact ⟨h flagH, h flagC, ⟨h flagN, h flagZ, h flagV, h flagS⟩, h flagI, h srReserved⟩

theorem addsInto_addInto (s : State) (d : Reg) (b : Byte) (cin : Bool) : AddsInto s (s.addInto d b cin) d b cin := by
  refine ⟨?_, ?_, aluFrame_writeResult s d _ _⟩ <;> rw [State.addInto, getReg_writeResult_self]
  · exact toNat_addResult _ _ _
  · exact addFlags_formulas _ _ _ _

/-- Settles O26: the three forms are `State.addInto` of their operand and carry-in. -/
theorem addInstructionsAdd : Obligations.AddInstructionsAdd := fun s d r k =>
  ⟨encoded_of_wf rfl, encoded_of_wf rfl, encoded_of_wf rfl, ⟨_, rfl, addsInto_addInto s d (s.getReg r) false⟩,
    ⟨_, rfl, addsInto_addInto s d (s.getReg r) (getFlag s.sr flagC)⟩, ⟨_, rfl, addsInto_addInto s d k false⟩⟩

/-- One byte of a longer addition: the sum modulo 256, its carry in C, and every other register as it was. -/
theorem addInto_byte {s t : State} {d : Reg} {b : Byte} {cin : Bool} (ht : t = s.addInto d b cin) :
    (t.getReg d).toNat = ((s.getReg d).toNat + b.toNat + cin.toNat) % 256 ∧
    getFlag t.sr flagC = decide (255 < (s.getReg d).toNat + b.toNat + cin.toNat) ∧
    ∀ j, j ≠ d → t.getReg j = s.getReg j := by
  subst ht
  obtain ⟨hsum, -, hregs, -⟩ := addsInto_addInto s d b cin
  exact ⟨hsum, carry_addFlags _ _ _ _, fun j hj => hregs j (by simpa using hj)⟩

/-- Settles O34: the carry of the low bytes is the carry-in of the high bytes, which the ADD has left as they were, and the
ADC leaves the low sum. -/
theorem addThenAdcAddsSixteenBits : Obligations.AddThenAdcAddsSixteenBits := by
  intro s t u lo lo' hi hi' hhi hhi' ht hu
  obtain ⟨hlow, hcarry, hkept⟩ := addInto_byte (next_inj ht)
  obtain ⟨hhigh, hout, hkept'⟩ := addInto_byte (next_inj hu)
  rw [hkept hi hhi, hkept hi' hhi', hcarry] at hhigh hout
  rw [hkept' lo hhi.symm, hhigh, hlow, hout]
  have := (s.getReg lo).isLt
  have := (s.getReg lo').isLt
  simp only [Bool.toNat_false, Nat.add_zero, decide_eq_true_eq]
  by_cases h : 255 < (s.getReg lo).toNat + (s.getReg lo').toNat
  · simp only [h, decide_true, Bool.toNat_true]
    omega
  · simp only [h, decide_false, Bool.toNat_false]
    omega

/-! ## SUB, SBC, SUBI, CP, CPI (41_alu R146 to R148, R155, R156) -/

theorem difference_subResult (a b : Byte) (bin : Bool) : Difference a b bin (subResult a b bin) := by
  have := bin.toNat_le
  rw [Difference, toNat_subResult]
  omega

/-- `SubEval` writes the flags of R142's formulas and keeps the other two. -/
theorem subFlags_formulas (a b : Byte) (bin : Bool) (sr : Byte) :
    SubFlags a b (subResult a b bin) sr (subFlags a b bin sr) := by
  have h := getFlag_subFlags a b bin sr
  exact ⟨h flagH, h flagC, ⟨h flagN, h flagZ, h flagV, h flagS⟩, h flagI, h srReserved⟩

theorem subtractsFrom_subFrom (s : State) (d : Reg) (b : Byte) (bin : Bool) :
    SubtractsFrom s (s.subFrom d b bin) d b bin := by
  refine ⟨?_, ?_, aluFrame_writeResult s d _ _⟩ <;> rw [State.subFrom, getReg_writeResult_self]
  · exact difference_subResult _ _ _
  · exact subFlags_formulas _ _ _ _

/-- Settles O27: the three forms are `State.subFrom` of their operand and borrow-in. -/
theorem subtractInstructionsSubtract : Obligations.SubtractInstructionsSubtract := fun s d r k =>
  ⟨encoded_of_wf rfl, encoded_of_wf rfl, encoded_of_wf rfl, ⟨_, rfl, subtractsFrom_subFrom s d (s.getReg r) false⟩,
    ⟨_, rfl, subtractsFrom_subFrom s d (s.getReg r) (getFlag s.sr flagC)⟩, ⟨_, rfl, subtractsFrom_subFrom s d k false⟩⟩

theorem compares_compareWith (s : State) (d : Reg) (b : Byte) : Compares s (s.compareWith d b) d b :=
  ⟨⟨subResult (s.getReg d) b false, difference_subResult _ _ _, subFlags_formulas _ _ _ _⟩, fun _ => rfl, rfl, rfl,
    onlyRegisters_of_registers rfl⟩

/-- Settles O28: both forms are `State.compareWith` of their operand. -/
theorem compareInstructionsWriteFlagsOnly : Obligations.CompareInstructionsWriteFlagsOnly := fun s d r k =>
  ⟨encoded_of_wf rfl, encoded_of_wf rfl, ⟨_, rfl, compares_compareWith s d (s.getReg r)⟩,
    ⟨_, rfl, compares_compareWith s d k⟩⟩

/-! ## AND, OR, XOR, ANDI, ORI (41_alu R149 to R151, R157, R158) -/

/-- `LogicEval` after a result whose bits are known. -/
theorem logicInto_of_bits (s : State) (d : Reg) {r : Byte} {bit : Nat → Bool} (hbit : ∀ i, r.getLsbD i = bit i) :
    LogicInto s (s.logicInto d r) d bit := by
  have hr : (s.logicInto d r).getReg d = r := getReg_writeResult_self s d r _
  have h := getFlag_logicFlags r s.sr
  refine ⟨fun i _ => ?_, ?_, h flagC, h flagH, h flagI, h srReserved, aluFrame_writeResult s d _ _⟩ <;> rw [hr]
  · exact hbit i
  · exact ⟨h flagN, h flagZ, h flagV, (h flagS).trans (Bool.xor_false _).symm⟩

/-- Settles O29: the five forms are `State.logicInto` of the and, or or exclusive or of their operands. -/
theorem logicInstructionsAreBitwise : Obligations.LogicInstructionsAreBitwise := fun s d r k =>
  ⟨encoded_of_wf rfl, encoded_of_wf rfl, encoded_of_wf rfl, encoded_of_wf rfl, encoded_of_wf rfl,
    ⟨_, rfl, logicInto_of_bits s d (r := s.getReg d &&& s.getReg r) fun _ => BitVec.getLsbD_and⟩,
    ⟨_, rfl, logicInto_of_bits s d (r := s.getReg d ||| s.getReg r) fun _ => BitVec.getLsbD_or⟩,
    ⟨_, rfl, logicInto_of_bits s d (r := s.getReg d ^^^ s.getReg r) fun _ => BitVec.getLsbD_xor⟩,
    ⟨_, rfl, logicInto_of_bits s d (r := s.getReg d &&& k) fun _ => BitVec.getLsbD_and⟩,
    ⟨_, rfl, logicInto_of_bits s d (r := s.getReg d ||| k) fun _ => BitVec.getLsbD_or⟩⟩

/-! ## MOV, LDI (41_alu R152, R153) -/

theorem movesInto_moveInto (s : State) (d : Reg) (v : Byte) : MovesInto s (s.moveInto d v) d v :=
  ⟨getReg_setReg_self s d v, rfl, aluFrame_moveInto s d v⟩

/-- Settles O30: both forms are `State.moveInto` of their operand. -/
theorem movesWriteOneRegister : Obligations.MovesWriteOneRegister := fun s d r k =>
  ⟨encoded_of_wf rfl, encoded_of_wf rfl, ⟨_, rfl, movesInto_moveInto s d (s.getReg r)⟩,
    ⟨_, rfl, movesInto_moveInto s d k⟩⟩

end Sys2Proof.Proofs

namespace Sys2Proof.Proofs

open Sys2Proof Sys2Proof.Machine Sys2Proof.Statements Sys2Proof.Laws

/-! ## A byte shifted by one bit, as a number (42_shift_flag R171) -/

/-- LSL with `low` the zero bit, ROL with `low` the carry. -/
theorem toNat_shiftedLeft (a : Byte) (low : BitVec 1) :
    (a.extractLsb' 0 7 ++ low).toNat = 2 * a.toNat % 256 + low.toNat := by
  rw [toNat_append', BitVec.extractLsb'_toNat, Nat.shiftRight_zero]
  omega

/-- LSR with `high` the zero bit, ASR with `high` bit 7, ROR with `high` the carry. -/
theorem toNat_shiftedRight (a : Byte) (high : BitVec 1) :
    (high ++ a.extractLsb' 1 7).toNat = 128 * high.toNat + a.toNat / 2 := by
  have := a.isLt
  rw [toNat_append', BitVec.extractLsb'_toNat, Nat.shiftRight_eq_div_pow]
  omega

/-- The top bit of a byte, as a number. -/
theorem toNat_topBit (a : Byte) : (a.extractLsb' 7 1).toNat = a.toNat / 128 := by
  have := a.isLt
  rw [BitVec.extractLsb'_toNat, Nat.shiftRight_eq_div_pow]
  omega

/-- The low bit of a byte says that its number is odd. -/
theorem getLsbD_zero_eq_odd (a : Byte) : a.getLsbD 0 = decide (a.toNat % 2 = 1) := by
  rw [getLsbD_eq_decide, Nat.pow_zero, Nat.div_one]

/-! ## LSL, LSR, ASR, ROL, ROR (42_shift_flag R172 to R176) -/

/-- A shift writes a result and flags as the forms of 41_alu do. -/
theorem shiftReg_eq_writeResult (s : State) (op : ShiftOp) (d : Reg) :
    s.shiftReg op d =
      s.writeResult d (shiftResult op (s.getReg d) (getFlag s.sr flagC)) (shiftFlags op (s.getReg d) s.sr) :=
  rfl

/-- `ShiftEval` on a register whose result and shifted-out bit are known. -/
theorem shiftsInto_shiftReg {s : State} {op : ShiftOp} {d : Reg} {r : Nat} {out : Bool}
    (hr : (shiftResult op (s.getReg d) (getFlag s.sr flagC)).toNat = r) (hout : shiftedOut op (s.getReg d) = out) :
    ShiftsInto s (s.shiftReg op d) d r out := by
  subst hout
  rw [shiftReg_eq_writeResult]
  have h := getFlag_shiftFlags op (s.getReg d) s.sr
  refine ⟨?_, h flagC, ?_, h flagH, h flagI, h srReserved, aluFrame_writeResult s d _ _⟩ <;>
    rw [getReg_writeResult_self]
  · exact hr
  · refine ⟨h flagN, h flagZ, h flagV, (h flagS).trans ?_⟩
    rw [← Bool.xor_assoc, Bool.xor_self, Bool.false_xor, if_pos rfl]

/-- Settles O35: the left shifts and the right shifts differ only in the bit that comes in. -/
theorem shiftInstructionsShiftByOne : Obligations.ShiftInstructionsShiftByOne := by
  intro s d
  have hleft := toNat_shiftedLeft (s.getReg d)
  have hright := toNat_shiftedRight (s.getReg d)
  have htop := getLsbD_seven (s.getReg d)
  have hlow := getLsbD_zero_eq_odd (s.getReg d)
  have hasr : (shiftResult .asr (s.getReg d) (getFlag s.sr flagC)).toNat =
      (s.getReg d).toNat / 2 + 128 * ((s.getReg d).toNat / 128) := by
    rw [shiftResult, hright, toNat_topBit, Nat.add_comm]
  have hrol : (shiftResult .rol (s.getReg d) (getFlag s.sr flagC)).toNat =
      2 * (s.getReg d).toNat % 256 + (getFlag s.sr flagC).toNat := by
    rw [shiftResult, hleft, BitVec.toNat_ofBool]
  have hror : (shiftResult .ror (s.getReg d) (getFlag s.sr flagC)).toNat =
      128 * (getFlag s.sr flagC).toNat + (s.getReg d).toNat / 2 := by
    rw [shiftResult, hright, BitVec.toNat_ofBool]
  exact ⟨encoded_of_wf rfl, encoded_of_wf rfl, encoded_of_wf rfl, encoded_of_wf rfl, encoded_of_wf rfl,
    ⟨_, rfl, shiftsInto_shiftReg (hleft 0#1) htop⟩,
    ⟨_, rfl, shiftsInto_shiftReg ((hright 0#1).trans (Nat.zero_add _)) hlow⟩,
    ⟨_, rfl, shiftsInto_shiftReg hasr hlow⟩,
    ⟨_, rfl, shiftsInto_shiftReg hrol htop⟩,
    ⟨_, rfl, shiftsInto_shiftReg hror hlow⟩⟩

/-! ## SEF, CLF, NOP (42_shift_flag R177 to R179) -/

/-- Only the named flag is written, with `v`, and `pc` advances: SEF with `v` set, CLF with `v` clear. -/
theorem putFlag_writes_one_flag (s : State) (b : BitNo) (v : Bool) :
    let t := (s.setSr (putFlag s.sr b v)).advance
    getFlag t.sr b = v ∧ (∀ f, f ≠ b → FlagKept s.sr t.sr f) ∧
      SameRegs s t ∧ t.sp = s.sp ∧ t.pc = s.pc + 2#16 ∧ OnlyRegisters s t :=
  ⟨(getFlag_putFlag s.sr b b v).trans (if_pos rfl), fun f hf => (getFlag_putFlag s.sr b f v).trans (if_neg hf),
    fun _ => rfl, rfl, rfl, onlyRegisters_of_registers rfl⟩

theorem advance_onlyPc (s : State) : OnlyPc s s.advance (s.pc + 2#16) :=
  ⟨rfl, fun _ => rfl, rfl, rfl, onlyRegisters_of_registers rfl⟩

/-- The flag number of SEF and CLF is one of 0 to 6 (30_encoding R86). -/
theorem flagNumberOk_iff {b : BitNo} : flagNumberOk b = true ↔ b ≠ 7#3 := bne_iff_ne

/-- Settles O36: SEF and CLF are one `putFlag` each, NOP the default advance. -/
theorem flagInstructionsWriteOneFlag : Obligations.FlagInstructionsWriteOneFlag := fun s b =>
  ⟨fun hb => ⟨encoded_of_wf (flagNumberOk_iff.2 hb), encoded_of_wf (flagNumberOk_iff.2 hb),
      ⟨_, rfl, putFlag_writes_one_flag s b true⟩, ⟨_, rfl, putFlag_writes_one_flag s b false⟩⟩,
    encoded_of_wf rfl, ⟨_, rfl, advance_onlyPc s⟩⟩

end Sys2Proof.Proofs

namespace Sys2Proof.Proofs

open Sys2Proof Sys2Proof.Machine Sys2Proof.Statements Sys2Proof.Laws

/-! ## Relative transfers as signed arithmetic (43_control R185 to R187) -/

/-- Twice a signed displacement of any width from `A + 2`, modulo 2^16. -/
theorem toNat_relative {n : Nat} (a : Addr) (k : BitVec n) :
    ((a + 2#16 + (k.signExtend 16 <<< 1)).toNat : Int) = (a.toNat + 2 + 2 * k.toInt) % 65536 := by
  simp only [BitVec.signExtend, BitVec.toNat_add, BitVec.toNat_shiftLeft, BitVec.toNat_ofInt, BitVec.toNat_ofNat,
    Nat.shiftLeft_eq]
  omega

theorem toNat_next (a : Addr) : ((a + 2#16).toNat : Int) = ((a.toNat : Int) + 2) % 65536 := by
  rw [BitVec.toNat_add]
  rfl

theorem setPc_onlyPc (s : State) (a : Addr) : OnlyPc s (s.setPc a) a :=
  ⟨rfl, fun _ => rfl, rfl, rfl, onlyRegisters_of_registers rfl⟩

/-- A branch goes to its target where it is taken and to the next instruction where it is not, and writes `pc` alone. -/
theorem branch_reaches (s : State) (k : Byte) {taken : Bool} {n : Int}
    (hn : n = if taken then s.pc.toNat + 2 + 2 * k.toInt else (s.pc.toNat : Int) + 2) :
    PcIs (s.branch taken k) n ∧ OnlyPc s (s.branch taken k) (s.branch taken k).pc := by
  subst hn
  cases taken with
  | true => exact ⟨toNat_relative s.pc k, setPc_onlyPc s _⟩
  | false => exact ⟨toNat_next s.pc, advance_onlyPc s⟩

/-- Settles O37: BRBC is taken where BRBS is not. -/
theorem relativeTransfersReachTheirTarget : Obligations.RelativeTransfersReachTheirTarget := by
  intro s k12 b k taken next
  refine ⟨encoded_of_wf rfl, ⟨_, rfl, toNat_relative s.pc k12, setPc_onlyPc s _⟩, fun hb => ?_⟩
  have hwf : flagNumberOk b = true := flagNumberOk_iff.2 hb
  refine ⟨encoded_of_wf hwf, encoded_of_wf hwf, ⟨_, rfl, branch_reaches s k ?_⟩, ⟨_, rfl, branch_reaches s k rfl⟩⟩
  cases getFlag s.sr b <;> rfl

/-! ## The second word of JMP and CALL (43_control R188, R189) -/

/-- `A + 2` is even exactly where `A` is (20_memory R56). -/
theorem nextPc_parity (s : State) : s.nextPc.toNat % 2 = s.pc.toNat % 2 := by
  rw [State.nextPc, pcGet_eq]
  bv_omega

theorem nextPc_even {s : State} (heven : s.pc.toNat % 2 = 0) : s.nextPc.toNat % 2 = 0 := (nextPc_parity s).trans heven

theorem nextPc_odd {s : State} (hodd : s.pc.toNat % 2 = 1) : s.nextPc.toNat % 2 ≠ 0 :=
  ne_of_eq_of_ne ((nextPc_parity s).trans hodd) one_ne_zero

theorem secondWord_even {s : State} (heven : s.pc.toNat % 2 = 0) : s.secondWord = some (s.wordAt (s.pc + 2#16)) :=
  memRead_eq_some.2 ⟨(aligned_iff _ _).2 (nextPc_even heven), (readLE_two s _).symm⟩

theorem secondWord_odd {s : State} (hodd : s.pc.toNat % 2 = 1) : s.secondWord = none :=
  memRead_eq_none.2 (nextPc_odd hodd)

theorem exec_jmp_even {s : State} (heven : s.pc.toNat % 2 = 0) :
    exec .jmp s = .next (s.setPc (s.wordAt (s.pc + 2#16))) := by
  show execJmp s = _
  simp only [execJmp, secondWord_even heven]

theorem exec_call_even {s : State} (heven : s.pc.toNat % 2 = 0) :
    exec .call s = .next ((s.pushWord (s.pc + 4#16)).setPc (s.wordAt (s.pc + 2#16))) := by
  show execCall s = _
  simp only [execCall, secondWord_even heven, pcGet_eq]

theorem exec_jmp_odd {s : State} (hodd : s.pc.toNat % 2 = 1) : exec .jmp s = .next (s.stop (.busError s.nextPc)) := by
  show execJmp s = _
  simp only [execJmp, secondWord_odd hodd]

theorem exec_call_odd {s : State} (hodd : s.pc.toNat % 2 = 1) : exec .call s = .next (s.stop (.busError s.nextPc)) := by
  show execCall s = _
  simp only [execCall, secondWord_odd hodd]

/-- Settles O38. -/
theorem jumpGoesToItsSecondWord : Obligations.JumpGoesToItsSecondWord :=
  ⟨encoded_of_wf rfl, fun s heven => ⟨_, exec_jmp_even heven, setPc_onlyPc s _⟩⟩

/-! ## The pushes of CALL and the pops of RET (43_control R189, R190) -/

/-- The two bytes of a push lie at different addresses. -/
theorem pushAddresses_ne (sp : Addr) : sp - 1#16 ≠ sp - 2#16 := by bv_omega

theorem byteAt_pushWord_high (s : State) (v : Word16) : (s.pushWord v).byteAt (s.sp - 1#16) = v.extractLsb' 8 8 := by
  rw [State.pushWord, setSp_byteAt, byteAt_storeByte, if_neg (pushAddresses_ne s.sp), byteAt_storeByte, if_pos rfl]

theorem byteAt_pushWord_low (s : State) (v : Word16) : (s.pushWord v).byteAt (s.sp - 2#16) = v.extractLsb' 0 8 := by
  rw [State.pushWord, setSp_byteAt, byteAt_storeByte, if_pos rfl]

theorem sameMemoryBut_pushWord (s : State) (v : Word16) : SameMemoryBut s (s.pushWord v) [s.sp - 1#16, s.sp - 2#16] := by
  intro a ha
  obtain ⟨hhigh, hlow⟩ : a ≠ s.sp - 1#16 ∧ a ≠ s.sp - 2#16 := by simpa using ha
  rw [State.pushWord, setSp_byteAt, byteAt_storeByte, if_neg hlow, byteAt_storeByte, if_neg hhigh]

theorem slotsEmptied_pushWord (s : State) (v : Word16) :
    SlotsEmptied s (s.pushWord v) [slotOf (s.sp - 1#16), slotOf (s.sp - 2#16)] :=
  slotsEmptied_trans (slotsEmptied_storeByte s _ (v.extractLsb' 8 8)) (slotsEmptied_storeByte _ _ (v.extractLsb' 0 8))

/-- Settles O39: the word pushed is `A + 4`, and what CALL does after the pushes is to set `pc`. -/
theorem callPushesTheReturnAddress : Obligations.CallPushesTheReturnAddress := by
  refine ⟨encoded_of_wf rfl, fun s heven => ⟨_, exec_call_even heven, rfl, rfl, ?_, ?_, sameMemoryBut_pushWord s _,
    slotsEmptied_pushWord s _, fun _ => rfl, rfl, ⟨rfl, rfl, rfl, rfl, rfl, rfl⟩, rfl⟩⟩
  · rw [setPc_byteAt, byteAt_pushWord_high, BitVec.extractLsb'_toNat, BitVec.toNat_add, Nat.shiftRight_eq_div_pow]
    simp only [BitVec.toNat_ofNat]
    omega
  · rw [setPc_byteAt, byteAt_pushWord_low, BitVec.extractLsb'_toNat, BitVec.toNat_add, Nat.shiftRight_zero]
    simp only [BitVec.toNat_ofNat]
    omega

/-- The number of the word with a given low and high byte. -/
theorem toNat_wordOfBytes (lo hi : Byte) : (wordOfBytes lo hi).toNat = 256 * hi.toNat + lo.toNat := by
  rw [wordOfBytes, toNat_append']
  omega

/-- Settles O40. -/
theorem returnPopsTheAddress : Obligations.ReturnPopsTheAddress :=
  ⟨encoded_of_wf rfl, fun _ => ⟨_, rfl, toNat_wordOfBytes _ _, rfl, fun _ => rfl, rfl, onlyRegisters_of_registers rfl⟩⟩

/-- Settles O41: the two bytes RET pops are the two bytes of `A + 4` that CALL pushed. -/
theorem callThenReturnComesBack : Obligations.CallThenReturnComesBack := by
  intro s t u v heven hcall hsp hstack hret
  obtain ⟨t', hcall', -, htsp, hhigh, hlow, -⟩ := callPushesTheReturnAddress.2 s heven
  obtain ⟨v', hret', hvpc, hvsp, -⟩ := returnPopsTheAddress.2 u
  obtain rfl := next_inj (hcall.symm.trans hcall')
  obtain rfl := next_inj (hret.symm.trans hret')
  have hnext : t'.sp + 1#16 = s.sp - 1#16 := by rw [htsp]; bv_omega
  rw [hsp, hstack _ (.inr rfl), hstack _ (.inl rfl), hnext, htsp, hhigh, hlow] at hvpc
  refine ⟨BitVec.eq_of_toNat_eq ?_, ?_⟩
  · rw [hvpc, BitVec.toNat_add]
    simp only [BitVec.toNat_ofNat]
    omega
  · rw [hvsp, hsp, htsp]
    bv_omega

/-! ## Conditional skips (43_control R191 to R194) -/

/-- A taken skip at an even `pc` passes the width of the instruction in memory at `A + 2`, and at most fills the cache. -/
theorem skip_taken_even {s : State} (heven : s.pc.toNat % 2 = 0) (hs : CacheCoherent s) :
    ∃ u, s.skip true = u.setPc (s.skipTarget (decode (s.wordAt (s.pc + 2#16))).width) ∧
      u = { s with icache := u.icache } ∧ CacheCoherent u := by
  obtain ⟨u, hfetch, hsame, hu⟩ := coherentFetchDecodesMemory s s.nextPc hs (nextPc_even heven)
  refine ⟨u, ?_, hsame, hu⟩
  simp only [State.skip, if_true, hfetch]
  rfl

theorem skip_taken_odd {s : State} (hodd : s.pc.toNat % 2 = 1) : s.skip true = s.stop (.busError s.nextPc) := by
  have hnone : s.fetch s.nextPc = none := (fetch_eq_none s).2 (nextPc_odd hodd)
  simp only [State.skip, if_true, hnone]

theorem skip_not_taken (s : State) : s.skip false = s.advance := rfl

/-- What every skipping instruction does at an even `pc`, whatever its condition. -/
theorem skipsIf_of_exec {i : Instr} {s : State} {cond : Bool} (hexec : exec i s = .next (s.skip cond))
    (heven : s.pc.toNat % 2 = 0) (hs : CacheCoherent s) : SkipsIf i s cond := by
  refine ⟨_, hexec, ?_⟩
  cases cond with
  | false =>
    rw [skip_not_taken]
    exact ⟨rfl, fun _ => rfl, rfl, rfl, fun _ => rfl, ⟨rfl, rfl, rfl, rfl, rfl, rfl⟩, rfl, hs, fun _ => rfl⟩
  | true =>
    obtain ⟨u, hskip, hsame, hu⟩ := skip_taken_even heven hs
    rw [hskip]
    rw [hsame] at hu ⊢
    exact ⟨rfl, fun _ => rfl, rfl, rfl, fun _ => rfl, ⟨rfl, rfl, rfl, rfl, rfl, rfl⟩, rfl, hu, nofun⟩

/-- Settles O42: CPSE, SBRC and SBRS are `Skip` of their condition. -/
theorem skipsPassOneWholeInstruction : Obligations.SkipsPassOneWholeInstruction := fun _ _ _ _ =>
  ⟨encoded_of_wf rfl, encoded_of_wf rfl, encoded_of_wf rfl, fun heven hs =>
    ⟨skipsIf_of_exec rfl heven hs, skipsIf_of_exec rfl heven hs, skipsIf_of_exec rfl heven hs⟩⟩

/-! ## An odd `pc` (log 12) -/

/-- The stop of a bus error is {stopped, SIGBUS} (60_exceptions R241). -/
theorem stopsWith_of_busError {i : Instr} {s : State} {a : Addr} (h : exec i s = .next (s.stop (.busError a))) :
    StopsWith i s .stopped 10 := h

/-- A skip of any form whose condition holds, at an odd `pc`. -/
theorem stopsWith_of_skip {i : Instr} {s : State} {cond : Bool} (hexec : exec i s = .next (s.skip cond))
    (hcond : cond = true) (hodd : s.pc.toNat % 2 = 1) : StopsWith i s .stopped 10 :=
  stopsWith_of_busError (by rw [hexec, hcond, skip_taken_odd hodd])

/-- A skip of any form whose condition fails does not look at the following slot. -/
theorem exec_skip_not_taken {i : Instr} {s : State} {cond : Bool} (hexec : exec i s = .next (s.skip cond))
    (hcond : cond = false) : exec i s = .next { s with pc := s.pc + 2#16 } := by
  rw [hexec, hcond]
  rfl

/-- Settles O43: JMP and CALL read their second word, a taken skip fetches it, and both fail at an odd address. -/
theorem secondWordsAtAnOddAddressStop : Obligations.SecondWordsAtAnOddAddressStop := by
  intro s d r b hodd
  refine ⟨stopsWith_of_busError (exec_jmp_odd hodd), stopsWith_of_busError (exec_call_odd hodd),
    fun heq => stopsWith_of_skip rfl (beq_iff_eq.2 heq) hodd, fun hne => exec_skip_not_taken rfl (beq_eq_false_iff_ne.2 hne),
    fun hclear => ⟨stopsWith_of_skip rfl ?_ hodd, exec_skip_not_taken rfl hclear⟩,
    fun hset => ⟨stopsWith_of_skip rfl hset hodd, exec_skip_not_taken rfl ?_⟩⟩
  · exact congrArg not hclear
  · exact congrArg not hset

end Sys2Proof.Proofs

namespace Sys2Proof.Proofs

open Sys2Proof Sys2Proof.Machine Sys2Proof.Statements Sys2Proof.Laws

/-! ## One stored byte and one loaded pair (20_memory R54, 10_state R22) -/

theorem byteAt_storeByte_self (s : State) (a : Addr) (v : Byte) : (s.storeByte a v).byteAt a = v :=
  (byteAt_storeByte s a a v).trans (if_pos rfl)

theorem sameMemoryBut_storeByte (s : State) (a : Addr) (v : Byte) : SameMemoryBut s (s.storeByte a v) [a] :=
  fun b hb => (byteAt_storeByte s a b v).trans (if_neg (List.ne_of_not_mem_cons hb))

theorem sameRegsBut_setReg (s : State) (d : Reg) (v : Byte) : SameRegsBut s (s.setReg d v) [d] :=
  fun _ hj => getReg_setReg_other s (List.ne_of_not_mem_cons hj) v

theorem getReg_setPair_low (s : State) (d : Reg) (lo hi : Byte) : (s.setPair d (wordOfBytes lo hi)).getReg d = lo := by
  rw [getReg_setPair, if_neg (pairHigh_ne d).symm, if_pos rfl, extract_low_wordOfBytes]

theorem getReg_setPair_high (s : State) (d : Reg) (lo hi : Byte) :
    (s.setPair d (wordOfBytes lo hi)).getReg (pairHigh d) = hi := by
  rw [getReg_setPair, if_pos rfl, extract_high_wordOfBytes]

theorem sameRegsBut_setPair (s : State) (d : Reg) (v : Word16) : SameRegsBut s (s.setPair d v) [d, pairHigh d] := by
  intro j hj
  obtain ⟨hlow, hhigh⟩ : j ≠ d ∧ j ≠ pairHigh d := by simpa using hj
  rw [getReg_setPair, if_neg hhigh, if_neg hlow]

/-! ## LDB, STB (44_loadstore R205, R206) -/

/-- LDB moves the loaded byte as MOV moves a register's. -/
theorem exec_ldb (d r : Reg) (s : State) : exec (.ldb d r) s = .next (s.moveInto d (s.byteAt (s.getPair r))) := rfl

theorem exec_stb (d r : Reg) (s : State) : exec (.stb d r) s = .next (s.storeByte (s.getPair r) (s.getReg d)).advance := rfl

/-- Settles O44. -/
theorem byteLoadsAndStores : Obligations.ByteLoadsAndStores := by
  intro s d r hr
  obtain ⟨hd, hsr, hregs, hsp, hpc, hrest⟩ := movesInto_moveInto s d (s.byteAt (s.getPair r))
  exact ⟨encoded_of_wf hr, encoded_of_wf hr, ⟨_, exec_ldb d r s, hd, hregs, hsp, hpc, hsr, hrest⟩,
    ⟨_, exec_stb d r s, byteAt_storeByte_self s _ _, sameMemoryBut_storeByte s _ (s.getReg d),
      slotsEmptied_storeByte s _ (s.getReg d), fun _ => rfl, rfl, rfl, rfl, ⟨rfl, rfl, rfl, rfl, rfl, rfl⟩, rfl⟩⟩

/-! ## LDW, STW (44_loadstore R207, R208) -/

theorem memRead_two_even {s : State} {a : Addr} (heven : a.toNat % 2 = 0) : s.memRead a .two = some (s.wordAt a) :=
  memRead_eq_some.2 ⟨(aligned_iff a 2).2 heven, (readLE_two s a).symm⟩

theorem memWrite_two_even {s : State} {a : Addr} (heven : a.toNat % 2 = 0) (v : Word16) :
    s.memWrite a .two v = some (s.writeLE a 2 v) :=
  memWrite_eq_some.2 ⟨(aligned_iff a 2).2 heven, rfl⟩

theorem exec_ldw_even {d r : Reg} {s : State} (heven : (s.getPair r).toNat % 2 = 0) :
    exec (.ldw d r) s = .next (s.setPair d (s.wordAt (s.getPair r))).advance := by
  show execLdw d r s = _
  simp only [execLdw, State.pairAddress, memRead_two_even heven]

theorem exec_stw_even {d r : Reg} {s : State} (heven : (s.getPair r).toNat % 2 = 0) :
    exec (.stw d r) s = .next (s.writeLE (s.getPair r) 2 (s.getPair d)).advance := by
  show execStw d r s = _
  simp only [execStw, State.pairAddress, memWrite_two_even heven]

theorem exec_ldw_odd {d r : Reg} {s : State} (hodd : (s.getPair r).toNat % 2 ≠ 0) :
    exec (.ldw d r) s = .next (s.stop (.busError (s.getPair r))) := by
  show execLdw d r s = _
  simp only [execLdw, State.pairAddress, (memRead_eq_none (n := .two)).2 hodd]

theorem exec_stw_odd {d r : Reg} {s : State} (hodd : (s.getPair r).toNat % 2 ≠ 0) :
    exec (.stw d r) s = .next (s.stop (.busError (s.getPair r))) := by
  show execStw d r s = _
  simp only [execStw, State.pairAddress, (memWrite_eq_none (n := .two)).2 hodd]

/-- The two addresses of a word. -/
theorem addresses_two {β : Type} (f : Addr → β) (a : Addr) :
    ((List.range 2).map fun j => f (a + BitVec.ofNat 16 j)) = [f a, f (a + 1#16)] := by
  simp [List.range_succ]

/-- A stored word puts its low byte at the lower address. -/
theorem byteAt_writeLE_two (s : State) (a : Addr) (lo hi : Byte) :
    (s.writeLE a 2 (wordOfBytes lo hi)).byteAt a = lo ∧ (s.writeLE a 2 (wordOfBytes lo hi)).byteAt (a + 1#16) = hi := by
  have hlow := byteAt_writeLE_inside s a (n := 2) (j := 0) (wordOfBytes lo hi) (by decide) (by decide)
  have hhigh := byteAt_writeLE_inside s a (n := 2) (j := 1) (wordOfBytes lo hi) (by decide) (by decide)
  rw [BitVec.add_zero] at hlow
  exact ⟨hlow.trans (extract_low_wordOfBytes lo hi), hhigh.trans (extract_high_wordOfBytes lo hi)⟩

theorem sameMemoryBut_writeLE_two (s : State) (a : Addr) (v : Word16) :
    SameMemoryBut s (s.writeLE a 2 v) [a, a + 1#16] :=
  addresses_two id a ▸ sameMemoryBut_writeLE s a (n := 2) v (by decide)

/-- The two bytes of a word at an even address lie in one slot. -/
theorem slotsEmptied_writeLE_two (s : State) {a : Addr} (heven : a.toNat % 2 = 0) (v : Word16) :
    SlotsEmptied s (s.writeLE a 2 v) [slotOf a] := by
  have hslots : SlotsEmptied s (s.writeLE a 2 v) [slotOf a, slotOf (a + 1#16)] :=
    addresses_two slotOf a ▸ slotsEmptied_writeLE 2 s a v
  intro i
  rw [hslots i, slotOf_add_one heven]
  simp

/-- Settles O45: an even address moves the pair byte by byte, an odd one is a bus error before any effect. -/
theorem wordLoadsAndStores : Obligations.WordLoadsAndStores := by
  intro s d r hd hr a
  have hwf : (pairNumberOk d && pairNumberOk r) = true := Bool.and_eq_true_iff.2 ⟨hd, hr⟩
  refine ⟨encoded_of_wf hwf, encoded_of_wf hwf, fun heven => ⟨?ldw, ?stw⟩, fun hodd => ?stops⟩
  case ldw =>
    exact ⟨_, exec_ldw_even heven, getReg_setPair_low s d _ _, getReg_setPair_high s d _ _, sameRegsBut_setPair s d _,
      rfl, rfl, rfl, onlyRegisters_of_registers rfl⟩
  case stw =>
    obtain ⟨hlow, hhigh⟩ := byteAt_writeLE_two s a (s.getReg d) (s.getReg (pairHigh d))
    exact ⟨_, exec_stw_even heven, hlow, hhigh, sameMemoryBut_writeLE_two s a _, slotsEmptied_writeLE_two s heven _,
      fun _ => rfl, rfl, rfl, rfl, ⟨rfl, rfl, rfl, rfl, rfl, rfl⟩, rfl⟩
  case stops =>
    have hne : a.toNat % 2 ≠ 0 := ne_of_eq_of_ne hodd one_ne_zero
    exact ⟨stopsWith_of_busError (exec_ldw_odd hne), stopsWith_of_busError (exec_stw_odd hne)⟩

/-! ## PUSH, POP (44_loadstore R209, R210) -/

/-- Settles O46: PUSH stores one byte as STB does, POP loads one as LDB does, and `sp` moves by one. -/
theorem pushAndPopMoveOneByte : Obligations.PushAndPopMoveOneByte := fun s r =>
  ⟨encoded_of_wf rfl, encoded_of_wf rfl,
    ⟨_, rfl, byteAt_storeByte_self s (s.sp - 1#16) (s.getReg r), rfl, sameMemoryBut_storeByte s _ (s.getReg r),
      slotsEmptied_storeByte s _ (s.getReg r), fun _ => rfl, rfl, rfl, ⟨rfl, rfl, rfl, rfl, rfl, rfl⟩, rfl⟩,
    ⟨_, rfl, getReg_setReg_self s r (s.byteAt s.sp), rfl, sameRegsBut_setReg s r (s.byteAt s.sp), rfl, rfl,
      onlyRegisters_of_registers rfl⟩⟩

end Sys2Proof.Proofs

namespace Sys2Proof.Proofs

open Sys2Proof Sys2Proof.Machine Sys2Proof.Statements Sys2Proof.Laws

/-! ## The stops of 45_system (R223, R226 to R228) -/

/-- A TRAP of an unassigned code takes the stop of R226. -/
theorem exec_trap_unassigned {k : Byte} (hk : 3 ≤ k.toNat) (s : State) :
    exec (.trap k) s = .next (s.stop (.trapStop k)) := by
  obtain ⟨rfl, -⟩ | ⟨rfl, -⟩ | ⟨rfl, -⟩ | ⟨-, e⟩ := execTrap_cases s k
  case inr.inr.inr => exact e
  all_goals exact absurd hk (by decide)

/-- Settles O48: TRAP 0, an unassigned TRAP and BREAK each take one stop. -/
theorem exitTrapAndBreakStop : Obligations.ExitTrapAndBreakStop :=
  ⟨fun _ => encoded_of_wf rfl, encoded_of_wf rfl,
    fun s => ⟨rfl, fun _ hk => exec_trap_unassigned hk s, rfl⟩⟩

/-- Where the boundary goes on and the fetch gives ILLEGAL, the counted state takes the stop of R228. -/
theorem step_of_illegal {s : State} {c : DecodeCache} (hphase : s.phase = .fetching)
    (hgo : s.atBoundary.stopRequest = false)
    (hf : s.atBoundary.fetch s.pc = some (.illegal, { s.atBoundary with icache := c })) :
    step s = .next ((fetchedWith s c).stop .illegalInstruction) := by
  obtain ⟨-, -, -, hpc, -, -, hcycles, -⟩ := atBoundary_same s
  rw [step_fetching hphase hgo, fetchAndDispatch, pcGet_eq, hpc, hf, fetchedWith, ← hcycles]
  rfl

/-- Settles O8: neither the boundary, the fetch, the count nor the stop writes what is to be unchanged. -/
theorem illegalWordStopsTheCore : Obligations.IllegalWordStopsTheCore := by
  intro s hphase hgo heven hs hillegal
  obtain ⟨hregs, hsr, hsp, hpc, hmem, -, -, -, -, hloaded⟩ := atBoundary_same s
  obtain ⟨c, hfetch, -⟩ := atBoundary_fetch hs heven
  rw [hillegal] at hfetch
  exact ⟨_, step_of_illegal hphase hgo hfetch, rfl, rfl, hpc, rfl, fun j => congrArg (·[j.toNat]'j.isLt) hregs, hsr, hsp,
    fun a => congrArg (Memory.read · a) hmem, hloaded⟩

/-! ## The return of a syscall (45_system R221) -/

/-- A syscall returns to the caller, which keeps its registers and control state, whatever it did to memory and to the
environment. -/
theorem syscallReturned_trapReturn {s u : State} {env : Environment} (hsame : SameButMemory { s with env := env } u)
    (value : Nat) (errno : Byte) :
    SyscallReturned s (u.trapReturn (BitVec.ofNat 16 value) errno) value errno := by
  have hreg := getReg_trapReturn u (BitVec.ofNat 16 value) errno
  refine ⟨?low, ?high, hreg 6#4, fun j hj => ?others, hsame.sr, hsame.sp, congrArg (· + 2#16) hsame.pc, hsame.cycles,
    hsame.phase, hsame.halt, hsame.pollCount, hsame.stopRequest, hsame.loaded⟩
  case low =>
    rw [hreg 0#4, if_neg (by decide), if_neg (by decide), if_pos rfl, BitVec.extractLsb'_toNat, BitVec.toNat_ofNat]
    omega
  case high =>
    rw [hreg 1#4, if_neg (by decide), if_pos rfl, BitVec.extractLsb'_toNat, BitVec.toNat_ofNat]
    omega
  case others =>
    obtain ⟨h0, h1, h6⟩ : j ≠ 0#4 ∧ j ≠ 1#4 ∧ j ≠ 6#4 := by simpa using hj
    rw [hreg j, if_neg h6, if_neg h1, if_neg h0]
    exact congrArg (·[j.toNat]'j.isLt) hsame.regs

/-! ## TRAP 1 (45_system R224) -/

/-- The bytes read from `a` on are those at its `n` addresses, ascending and wrapping. -/
theorem readBytes_eq_map (s : State) (n : Nat) :
    ∀ a : Addr, s.readBytes a n = (List.range n).map fun j => s.byteAt (a + BitVec.ofNat 16 j) := by
  induction n with
  | zero => exact fun _ => rfl
  | succ n ih => exact fun a => (congrArg (s.byteAt a :: ·) (ih (a + 1#16))).trans (addresses_succ s.byteAt a n).symm

/-- The buffer that TRAP 1 hands to the host. -/
def writeBuffer (s : State) : List Byte := s.readBytes (s.getPair 2#4) (s.getPair 4#4).toNat

/-- What the host answers to TRAP 1 in `s`. -/
def writeReply (s : State) : WriteAnswer := s.writeAnswer (s.getReg 0#4) (writeBuffer s)

/-- The state once TRAP 1 has made its call. -/
def writeCalled (s : State) : State := s.callWrite (s.getReg 0#4) (writeBuffer s)

theorem writeCalled_same (s : State) : SameButMemory { s with env := (writeCalled s).env } (writeCalled s) :=
  SameButMemory.rfl'

theorem length_writeBuffer (s : State) : (writeBuffer s).length = (s.getPair 4#4).toNat := by
  simp [writeBuffer, readBytes_eq_map]

theorem isWriteBuffer_writeBuffer (s : State) : IsWriteBuffer s (writeBuffer s) := by
  refine ⟨length_writeBuffer s, fun j hj => ?_⟩
  rw [length_writeBuffer] at hj
  simp [writeBuffer, readBytes_eq_map, hj]

theorem exec_trap_write_success {s : State} {n : Nat} (hreply : writeReply s = .success n) :
    exec (.trap 1#8) s =
      if n ≤ (s.getPair 4#4).toNat then
        .next ((writeCalled s).trapReturn (BitVec.ofNat 16 n) 0#8)
      else .refused .hostAnswerOutsideContract := by
  change s.writeAnswer s.trapDescriptor (s.readBytes s.trapBuffer s.trapLength) = _ at hreply
  show sysWrite s = _
  simp only [sysWrite, hreply]
  rfl

theorem exec_trap_write_failure {s : State} {e : Byte} (hreply : writeReply s = .failure e) :
    exec (.trap 1#8) s = .next ((writeCalled s).trapReturn 0xFFFF#16 e) := by
  change s.writeAnswer s.trapDescriptor (s.readBytes s.trapBuffer s.trapLength) = _ at hreply
  show sysWrite s = _
  simp only [sysWrite, hreply]
  rfl

/-- TRAP 1 hands over its buffer and returns the host's answer, where that is within the contract. -/
theorem trapWrite_wroteWith {s : State} (hallowed : (writeReply s).allowed (s.getPair 4#4).toNat = true) :
    Completes (.trap 1#8) s fun t => WroteWith s t (writeReply s) s.env.writeAnswers.tail := by
  have hbuffer := isWriteBuffer_writeBuffer s
  have hreturned := syscallReturned_trapReturn (writeCalled_same s)
  cases hreply : writeReply s with
  | success n =>
    rw [hreply] at hallowed
    exact ⟨_, (exec_trap_write_success hreply).trans (if_pos (of_decide_eq_true hallowed)), hreturned n 0#8,
      ⟨_, hbuffer, rfl⟩, fun _ => rfl, rfl⟩
  | failure e =>
    exact ⟨_, exec_trap_write_failure hreply, hreturned 0xFFFF e, ⟨_, hbuffer, rfl⟩, fun _ => rfl, rfl⟩

/-- The host answers with the next of the answers to come, where one is (log 4). -/
theorem writeReply_of_cons {s : State} {ans : WriteAnswer} {rest : List WriteAnswer}
    (h : s.env.writeAnswers = ans :: rest) : writeReply s = ans := by
  rw [writeReply, State.writeAnswer, h]

/-- A free answer counts no more bytes than the buffer holds (log 4). -/
theorem writeReply_allowed_of_nil {s : State} (h : s.env.writeAnswers = []) :
    (writeReply s).allowed (s.getPair 4#4).toNat = true := by
  rw [writeReply, State.writeAnswer, h, ← length_writeBuffer]
  cases Config.freeWriteAnswer s.env.hostCalls.length (s.getReg 0#4) (writeBuffer s) with
  | inl n => exact decide_eq_true (Nat.le_of_lt_succ n.isLt)
  | inr e => rfl

/-- Settles O49: the host's answer is the first of those to come, and the rest are left. -/
theorem trapWriteHandsTheBufferToTheHost : Obligations.TrapWriteHandsTheBufferToTheHost := by
  intro s ans rest hanswers hallowed
  obtain rfl := writeReply_of_cons hanswers
  simpa only [hanswers, List.tail_cons] using trapWrite_wroteWith hallowed

/-! ## TRAP 2 (45_system R225) -/

/-- What the host answers to TRAP 2 in `s`. -/
def readReply (s : State) : ReadAnswer := s.readAnswer (s.getReg 0#4) (s.getPair 4#4).toNat

/-- The state once TRAP 2 has made its call and `data` is stored at `xp[2]`. -/
def readStored (s : State) (data : List Byte) : State :=
  (s.callRead (s.getReg 0#4) (s.getPair 4#4).toNat).writeBytes (s.getPair 2#4) data

theorem exec_trap_read_success {s : State} {data : List Byte} (hreply : readReply s = .success data) :
    exec (.trap 2#8) s =
      if data.length ≤ (s.getPair 4#4).toNat then
        .next ((readStored s data).trapReturn (BitVec.ofNat 16 data.length) 0#8)
      else .refused .hostAnswerOutsideContract := by
  change s.readAnswer s.trapDescriptor s.trapLength = _ at hreply
  show sysRead s = _
  simp only [sysRead, hreply]
  rfl

theorem exec_trap_read_failure {s : State} {e : Byte} (hreply : readReply s = .failure e) :
    exec (.trap 2#8) s = .next ((readStored s []).trapReturn 0xFFFF#16 e) := by
  change s.readAnswer s.trapDescriptor s.trapLength = _ at hreply
  show sysRead s = _
  simp only [sysRead, hreply]
  rfl

/-- Storing the host's bytes touches memory and cache alone. -/
theorem readStored_same (s : State) (data : List Byte) :
    SameButMemory (s.callRead (s.getReg 0#4) (s.getPair 4#4).toNat) (readStored s data) := writeBytes_same data _ _

/-- The bytes stored, no more than memory holds, are read back in their order. -/
theorem byteAt_readStored (s : State) {data : List Byte} (hlen : data.length ≤ 65536) {j : Nat} (hj : j < data.length) :
    data[j]? = some ((readStored s data).byteAt (s.getPair 2#4 + BitVec.ofNat 16 j)) := by
  have hoffset : (s.getPair 2#4 + BitVec.ofNat 16 j - s.getPair 2#4).toNat = j := offset_add (by omega)
  rw [readStored, byteAt_writeBytes_inside data _ _ _ (hoffset.symm ▸ hj) hlen, hoffset, List.getElem?_eq_getElem hj,
    Option.getD_some]

/-- TRAP 2 stores the host's bytes, none where it fails, and returns its answer, where that is within the contract. -/
theorem trapRead_readWith {s : State} (hallowed : (readReply s).allowed (s.getPair 4#4).toNat = true) :
    Completes (.trap 2#8) s fun t => ReadWith s t (readReply s) s.env.readAnswers.tail := by
  have hreturned := fun data => syscallReturned_trapReturn (readStored_same s data)
  cases hreply : readReply s with
  | success data =>
    rw [hreply] at hallowed
    have hlen : data.length ≤ (s.getPair 4#4).toNat := of_decide_eq_true hallowed
    have hfits : data.length ≤ 65536 := hlen.trans (s.getPair 4#4).isLt.le
    exact ⟨_, (exec_trap_read_success hreply).trans (if_pos hlen),
      ⟨hreturned data data.length 0#8, fun _ => byteAt_readStored s hfits,
        sameMemoryBut_writeBytes (s.callRead _ _) _ data, slotsEmptied_writeBytes data (s.callRead _ _) _⟩,
      (readStored_same s data).env⟩
  | failure e =>
    exact ⟨_, exec_trap_read_failure hreply, ⟨hreturned [] 0xFFFF e, fun _ => rfl, rfl⟩, rfl⟩

/-- The host answers with the next of the answers to come, where one is (log 4). -/
theorem readReply_of_cons {s : State} {ans : ReadAnswer} {rest : List ReadAnswer}
    (h : s.env.readAnswers = ans :: rest) : readReply s = ans := by
  rw [readReply, State.readAnswer, h]

/-- A free answer has no more bytes than were asked for (log 4). -/
theorem readReply_allowed_of_nil {s : State} (h : s.env.readAnswers = []) :
    (readReply s).allowed (s.getPair 4#4).toNat = true := by
  rw [readReply, State.readAnswer, h]
  cases Config.freeReadAnswer s.env.hostCalls.length (s.getReg 0#4) (s.getPair 4#4).toNat with
  | inl data => exact decide_eq_true (List.length_take_le _ _)
  | inr e => rfl

/-- Settles O50: the host's answer is the first of those to come, and the rest are left. -/
theorem trapReadStoresTheHostsBytes : Obligations.TrapReadStoresTheHostsBytes := by
  intro s ans rest hanswers hallowed
  obtain rfl := readReply_of_cons hanswers
  simpa only [hanswers, List.tail_cons] using trapRead_readWith hallowed

/-! ## The contract of the answers (93_implementation_defined U5, U6) -/

/-- Settles O51: a free answer is within the contract, and one that counts too many bytes fails the length test. -/
theorem hostAnswersStayWithinTheContract : Obligations.HostAnswersStayWithinTheContract := by
  refine ⟨fun s hnone => ⟨writeReply s, writeReply_allowed_of_nil hnone, ?write⟩,
    fun s hnone => ⟨readReply s, readReply_allowed_of_nil hnone, ?read⟩,
    fun s n rest hanswers hn => (exec_trap_write_success (writeReply_of_cons hanswers)).trans (if_neg hn.not_ge),
    fun s data rest hanswers hn => (exec_trap_read_success (readReply_of_cons hanswers)).trans (if_neg hn.not_ge)⟩
  case write => simpa only [hnone, List.tail_nil] using trapWrite_wroteWith (writeReply_allowed_of_nil hnone)
  case read => simpa only [hnone, List.tail_nil] using trapRead_readWith (readReply_allowed_of_nil hnone)

end Sys2Proof.Proofs

namespace Sys2Proof.Proofs

open Sys2Proof Sys2Proof.Machine Sys2Proof.Statements Sys2Proof.Laws

/-! ## Precise stops (60_exceptions R241, R247) -/

/-- Settles O12: an instruction that retires leaves the phase, so one that ends HALTED has taken a stop, which writes `halt`
and `phase` alone. -/
theorem stoppingInstructionsWriteNothing : Obligations.StoppingInstructionsWriteNothing := by
  intro i s t hrunning h hhalted
  obtain ⟨c, rfl⟩ | hr := exec_stops_or_retires h
  · rfl
  · exact absurd (hr.phase.symm.trans hhalted) hrunning

/-- The instructions that stop the core from an even `pc` (60_exceptions R241), as a function of the instruction. -/
def Raises (s : State) : Instr → Prop
  | .brk => True
  | .trap k => k ≠ 1#8 ∧ k ≠ 2#8
  | .ldw _ r | .stw _ r => (s.getPair r).toNat % 2 = 1
  | _ => False

theorem raises_iff {i : Instr} {s : State} :
    Raises s i ↔ i = .brk ∨ (∃ k, i = .trap k ∧ k ≠ 1#8 ∧ k ≠ 2#8) ∨
      ∃ d r, (i = .ldw d r ∨ i = .stw d r) ∧ (s.getPair r).toNat % 2 = 1 := by
  cases i <;> simp [Raises]

/-- TRAP stops for every code but those of `write` and `read` (45_system R220). -/
theorem execTrap_stops {k : Byte} (hwrite : k ≠ 1#8) (hread : k ≠ 2#8) (s : State) :
    ∃ c, execTrap k s = .next (s.stop c) := by
  obtain ⟨-, e⟩ | ⟨hk, -⟩ | ⟨hk, -⟩ | ⟨-, e⟩ := execTrap_cases s k
  · exact ⟨_, e⟩
  · exact absurd hk hwrite
  · exact absurd hk hread
  · exact ⟨_, e⟩

theorem exec_of_raises {i : Instr} {s : State} (hi : Raises s i) : ∃ c, exec i s = .next (s.stop c) := by
  obtain rfl | ⟨k, rfl, hwrite, hread⟩ | ⟨d, r, rfl | rfl, hodd⟩ := raises_iff.1 hi
  · exact ⟨_, rfl⟩
  · exact execTrap_stops hwrite hread s
  · exact ⟨_, exec_ldw_odd (ne_of_eq_of_ne hodd one_ne_zero)⟩
  · exact ⟨_, exec_stw_odd (ne_of_eq_of_ne hodd one_ne_zero)⟩

/-- A skip at an even `pc` finds its following slot, so it stops nothing. -/
theorem skip_phase_even {s : State} (heven : s.pc.toNat % 2 = 0) (cond : Bool) : (s.skip cond).phase = s.phase := by
  obtain ⟨-, e⟩ | ⟨-, hnone, -⟩ | ⟨-, d, u, hfetch, e⟩ := skip_cases s cond
  · rw [e, advance_phase]
  · exact absurd (nextPc_even heven) ((fetch_eq_none s).1 hnone)
  · rw [e, setPc_phase, (fetch_same hfetch).1.phase]

/-- TRAP 1 and TRAP 2 return to the caller. -/
theorem execTrap_phase {k : Byte} {s t : State} (hk : ¬(k ≠ 1#8 ∧ k ≠ 2#8)) (h : execTrap k s = .next t) :
    t.phase = s.phase := by
  obtain rfl | rfl : k = 1#8 ∨ k = 2#8 := by rwa [← not_ne_iff, ← not_ne_iff, ← not_and_or]
  · exact (retires_sysWrite (k := 1#8) h).phase
  · exact (retires_sysRead h).phase

/-- From an even `pc` every instruction that is not of the list keeps the phase. -/
theorem exec_phase_of_not_raises {i : Instr} {s t : State} (heven : s.pc.toNat % 2 = 0) (hi : ¬Raises s i)
    (h : exec i s = .next t) : t.phase = s.phase := by
  cases i with
  | brk => exact absurd trivial hi
  | trap k => exact execTrap_phase hi h
  | ldw d r =>
    rw [exec_ldw_even (Nat.mod_two_ne_one.1 hi)] at h
    obtain rfl := next_inj h
    rfl
  | stw d r =>
    rw [exec_stw_even (Nat.mod_two_ne_one.1 hi)] at h
    rw [next_inj h, advance_phase, (writeLE_same ..).phase]
  | jmp =>
    rw [exec_jmp_even heven] at h
    obtain rfl := next_inj h
    rfl
  | call =>
    rw [exec_call_even heven] at h
    obtain rfl := next_inj h
    rfl
  | cpse | sbrc | sbrs => exact (congrArg State.phase (next_inj h)).trans (skip_phase_even heven _)
  | brbc | brbs =>
    obtain rfl := next_inj h
    rw [branch_eq, setPc_phase]
  | add | adc | sub | sbc | cp | and | or | xor | mov | ldi | addi | subi | cpi | andi | ori | lsl | lsr | asr | rol | ror
  | sef | clf | nop | ldb | stb | push | pop | rjmp | ret =>
    obtain rfl := next_inj h
    rfl

/-- Settles O13: an instruction of the list takes a stop, and every other one keeps the phase of a core that runs. -/
theorem onlyTheListedInstructionsStop : Obligations.OnlyTheListedInstructionsStop := by
  intro i s t hrunning heven h
  rw [← raises_iff]
  by_cases hi : Raises s i
  · obtain ⟨c, e⟩ := exec_of_raises hi
    obtain rfl := next_inj (e.symm.trans h)
    exact iff_of_true rfl hi
  · rw [exec_phase_of_not_raises heven hi h]
    exact iff_of_false hrunning hi

/-! ## The harness and a run (80_host R310, R319; 60_exceptions R260) -/

/-- A step of a HALTED core is the harness's turn. -/
theorem step_halted {s : State} (hphase : s.phase = .halted) : step s = harnessTurn s := by rw [step, hphase]

/-- Settles O59: the phase is looked at before the call, and the harness's turn looks at the calls to come alone. -/
theorem harnessActsOnlyWhileHalted : Obligations.HarnessActsOnlyWhileHalted := by
  refine ⟨fun s c hrunning => if_pos hrunning, fun s hphase => if_neg (not_not_intro hphase),
    fun s hphase hnone => ?idle, fun s c rest hphase hcalls => ?call⟩
  case idle => rw [step_halted hphase, harnessTurn, hnone]
  case call => rw [step_halted hphase, harnessTurn, hcalls]

end Sys2Proof.Proofs

namespace Sys2Proof.Proofs

open Sys2Proof Sys2Proof.Machine Sys2Proof.Statements Sys2Proof.Laws

/-! ## The state after reset (70_reset R280) -/

/-- Settles O20: the memory and the cache of a created context list no entry, and its registers are all 0. -/
theorem resetLeavesTheStatedValues : Obligations.ResetLeavesTheStatedValues :=
  ⟨getReg_created _, rfl, rfl, rfl, fun _ => rfl, fun _ => rfl, rfl, rfl, rfl, rfl, rfl, rfl⟩

/-! ## The segments of an image (70_reset R281) -/

theorem mask_add (a j : Nat) : mask (a + j) = mask a + BitVec.ofNat 16 j := by
  rw [mask_eq, mask_eq, BitVec.ofNat_add]

theorem add_ofNat_succ (a : Addr) (j : Nat) : a + BitVec.ofNat 16 (j + 1) = a + 1#16 + BitVec.ofNat 16 j := by
  rw [Nat.add_comm, BitVec.ofNat_add, BitVec.add_assoc]

/-- A run of stored bytes, of any length, leaves a byte it does not cover. -/
theorem byteAt_writeBytes_uncovered {s : State} {a b : Addr} {vs : List Byte}
    (h : ∀ j, j < vs.length → a + BitVec.ofNat 16 j ≠ b) : (s.writeBytes a vs).byteAt b = s.byteAt b := by
  refine sameMemoryBut_writeBytes s a vs b fun hb => ?_
  obtain ⟨j, hj, e⟩ := List.mem_map.1 hb
  exact h j (List.mem_range.1 hj) e

/-- Of a run of stored bytes, of any length, the last one that covers an address stays there. -/
theorem byteAt_writeBytes_last (vs : List Byte) :
    ∀ (s : State) (a : Addr) (j : Nat), j < vs.length →
      (∀ i, i < vs.length → j < i → a + BitVec.ofNat 16 i ≠ a + BitVec.ofNat 16 j) →
      vs[j]? = some ((s.writeBytes a vs).byteAt (a + BitVec.ofNat 16 j)) := by
  induction vs with
  | nil => exact fun _ _ j hj => absurd hj (Nat.not_lt_zero j)
  | cons v vs ih =>
    intro s a j hj hlast
    cases j with
    | zero =>
      have hrest : ∀ i, i < vs.length → a + 1#16 + BitVec.ofNat 16 i ≠ a := fun i hi => by
        rw [← add_ofNat_succ]
        simpa only [BitVec.add_zero] using hlast (i + 1) (Nat.succ_lt_succ hi) i.succ_pos
      rw [State.writeBytes, BitVec.add_zero, byteAt_writeBytes_uncovered hrest, byteAt_storeByte_self]
      rfl
    | succ j =>
      rw [State.writeBytes, add_ofNat_succ a j]
      refine ih _ _ j (Nat.lt_of_succ_lt_succ hj) fun i hi hlt => ?_
      rw [← add_ofNat_succ, ← add_ofNat_succ]
      exact hlast (i + 1) (Nat.succ_lt_succ hi) (Nat.succ_lt_succ hlt)

theorem loadSegments_append (before after : List (Nat × List Byte)) :
    ∀ s : State, s.loadSegments (before ++ after) = (s.loadSegments before).loadSegments after := by
  induction before with
  | nil => exact fun _ => rfl
  | cons seg before ih => exact fun s => ih _

/-- Loading segments leaves a byte none of them covers. -/
theorem byteAt_loadSegments_uncovered {a : Addr} (segs : List (Nat × List Byte)) :
    ∀ s : State, (∀ seg ∈ segs, ∀ j, j < seg.2.length → mask (seg.1 + j) ≠ a) →
      (s.loadSegments segs).byteAt a = s.byteAt a := by
  induction segs with
  | nil => exact fun _ _ => rfl
  | cons seg segs ih =>
    intro s h
    obtain ⟨hseg, hsegs⟩ := List.forall_mem_cons.1 h
    rw [State.loadSegments, ih _ hsegs]
    exact byteAt_writeBytes_uncovered fun j hj => mask_add seg.1 j ▸ hseg j hj

/-- The last byte of a segment that covers an address stays there, where no later segment covers it. -/
theorem byteAt_loadSegments_last (s : State) (before after : List (Nat × List Byte)) (seg : Nat × List Byte) {j : Nat}
    (hj : j < seg.2.length)
    (hlast : ∀ i, i < seg.2.length → j < i → mask (seg.1 + i) ≠ mask (seg.1 + j))
    (hlater : ∀ later ∈ after, ∀ i, i < later.2.length → mask (later.1 + i) ≠ mask (seg.1 + j)) :
    seg.2[j]? = some ((s.loadSegments (before ++ seg :: after)).byteAt (mask (seg.1 + j))) := by
  rw [loadSegments_append, State.loadSegments, byteAt_loadSegments_uncovered after _ hlater]
  simp only [mask_add] at hlast ⊢
  exact byteAt_writeBytes_last seg.2 _ _ j hj hlast

/-- Loading segments fills no slot of the decode cache. -/
theorem loadSegments_slot_empty {i : Nat} (segs : List (Nat × List Byte)) :
    ∀ s : State, tableFind s.icache i = none → tableFind (s.loadSegments segs).icache i = none := by
  induction segs with
  | nil => exact fun _ h => h
  | cons seg segs ih =>
    refine fun s h => ih _ ?_
    rw [State.bulkWrite, slotsEmptied_writeBytes seg.2 s _ i, h, ite_self]

/-! ## `reset_with_image` (70_reset R281) -/

theorem harnessCall_resetWithImage_refused {s : State} (hs : s.phase = .halted) (segs : List (Nat × List Byte))
    (entry : Nat) {machineType : Nat} (h : machineType ≠ 0) :
    harnessCall (.resetWithImage segs entry machineType) s = .refused (.unknownMachineType machineType) :=
  (if_neg (not_not_intro hs)).trans (if_neg h)

/-- Settles O58: loading the segments into a created context changes memory and cache alone. -/
theorem resetWithImageLoadsTheSegments : Obligations.ResetWithImageLoadsTheSegments := by
  intro s segs entry machineType hs
  have hsame := loadSegments_same segs (State.created s.env)
  have hregs (i : Reg) : (s.resetWithImage segs entry).getReg i = 0#8 :=
    (congrArg (·[i.toNat]'i.isLt) hsame.regs).trans (getReg_created s.env i)
  refine ⟨harnessCall_resetWithImage_refused hs segs entry, s.resetWithImage segs entry,
    harnessCall_resetWithImage hs segs entry, ?pc, rfl, hregs, hsame.sr, hsame.sp, hsame.cycles, hsame.phase, hsame.halt,
    hsame.pollCount, hsame.stopRequest, fun i => loadSegments_slot_empty segs _ rfl,
    fun a => byteAt_loadSegments_uncovered segs _, ?covered⟩
  case pc => rw [State.resetWithImage, mask_eq, BitVec.toNat_ofNat]
  case covered =>
    rintro before after seg rfl j hj hlast hlater
    exact byteAt_loadSegments_last _ before after seg hj hlast hlater

end Sys2Proof.Proofs

namespace Sys2Proof.Proofs

open Sys2Proof Sys2Proof.Machine Sys2Proof.Statements Sys2Proof.Laws

/-! ## The harness's register numbering (80_host R312, R314) -/

/-- The numbers of `REGNUM`: the general registers', then those of `sr`, `sp` and `pc`. -/
theorem regNum_cases {i : Nat} (h : i ≤ 18) : (∃ r : Reg, i = r.toNat) ∨ i = 16 ∨ i = 17 ∨ i = 18 := by
  by_cases hgeneral : i < 16
  · exact .inl ⟨BitVec.ofNat 4 i, (Nat.mod_eq_of_lt hgeneral).symm⟩
  · omega

theorem regNum_above {i : Nat} (h : 18 < i) :
    ¬ i < Config.p0.regNum.general ∧ i ≠ Config.p0.regNum.sr ∧ i ≠ Config.p0.regNum.sp ∧ i ≠ Config.p0.regNum.pc := by
  obtain ⟨hgeneral, hsr, hsp, hpc⟩ := regNum_eq
  omega

theorem registerGet_general (s : State) (r : Reg) : s.registerGet r.toNat = some [s.getReg r] := by
  rw [State.registerGet, if_pos r.isLt, BitVec.ofNat_toNat, BitVec.setWidth_eq]

theorem registerGet_sr (s : State) : s.registerGet 16 = some [s.sr] := rfl

theorem registerGet_sp (s : State) : s.registerGet 17 = some (bytesOfWord s.sp) := rfl

theorem registerGet_pc (s : State) : s.registerGet 18 = some (bytesOfWord s.pc) := rfl

theorem registerGet_above {i : Nat} (h : 18 < i) (s : State) : s.registerGet i = none :=
  have ⟨hgeneral, hsr, hsp, hpc⟩ := regNum_above h
  (if_neg hgeneral).trans ((if_neg hsr).trans ((if_neg hsp).trans (if_neg hpc)))

theorem registerStore_general (s : State) (r : Reg) (v : Byte) :
    s.registerStore r.toNat [v] = some (1, s.setReg r v) := by
  rw [State.registerStore, if_pos r.isLt, BitVec.ofNat_toNat, BitVec.setWidth_eq]

theorem registerStore_sr (s : State) (v : Byte) : s.registerStore 16 [v] = some (1, s.setSr (v &&& 0x7F#8)) := rfl

theorem registerStore_sp (s : State) (lo hi : Byte) :
    s.registerStore 17 [lo, hi] = some (2, s.setSp (wordOfBytes lo hi)) := rfl

theorem registerStore_pc (s : State) (lo hi : Byte) :
    s.registerStore 18 [lo, hi] = some (2, s.setPc (wordOfBytes lo hi)) := rfl

theorem registerStore_above {i : Nat} (h : 18 < i) (s : State) (bytes : List Byte) : s.registerStore i bytes = none :=
  have ⟨hgeneral, hsr, hsp, hpc⟩ := regNum_above h
  (if_neg hgeneral).trans ((if_neg hsr).trans ((if_neg hsp).trans (if_neg hpc)))

/-- What `register_get` returns depends on the register of that number alone. -/
theorem registerGet_congr {s t : State} {j : Nat} (hgeneral : ∀ r : Reg, j = r.toNat → t.getReg r = s.getReg r)
    (hsr : j = 16 → t.sr = s.sr) (hsp : j = 17 → t.sp = s.sp) (hpc : j = 18 → t.pc = s.pc) :
    t.registerGet j = s.registerGet j := by
  by_cases hj : 18 < j
  · rw [registerGet_above hj, registerGet_above hj]
  obtain ⟨r, rfl⟩ | rfl | rfl | rfl := regNum_cases (Nat.le_of_not_lt hj)
  · rw [registerGet_general, registerGet_general, hgeneral r rfl]
  · rw [registerGet_sr, registerGet_sr, hsr rfl]
  · rw [registerGet_sp, registerGet_sp, hsp rfl]
  · rw [registerGet_pc, registerGet_pc, hpc rfl]

/-! ## The replies of a HALTED core (log 8) -/

theorem returns_registerGet {s : State} {i : Nat} {value : List Byte} (hphase : s.phase = .halted)
    (h : s.registerGet i = some value) : Returns (.registerGet i) s s (.bytes value) := by
  rw [Returns, harnessCall, if_neg (not_not_intro hphase)]
  simp only [h]
  rfl

theorem returns_registerStore {s t : State} {i n : Nat} {bytes : List Byte} (hphase : s.phase = .halted)
    (h : s.registerStore i bytes = some (n, t)) : Returns (.registerStore i bytes) s t (.count n) := by
  rw [Returns, harnessCall, if_neg (not_not_intro hphase)]
  simp only [h]
  rfl

theorem returns_memoryRead {s : State} (hphase : s.phase = .halted) (addr n : Nat) :
    Returns (.memoryRead addr n) s s (.bytes (s.bulkRead addr n)) := if_neg (not_not_intro hphase)

theorem harnessCall_registerGet_refused {s : State} {i : Nat} (hphase : s.phase = .halted)
    (h : s.registerGet i = none) : harnessCall (.registerGet i) s = .refused (.invalidRegisterIndex i) := by
  rw [harnessCall, if_neg (not_not_intro hphase)]
  simp only [h]

theorem harnessCall_registerStore_refused {s : State} {i : Nat} {bytes : List Byte} (hphase : s.phase = .halted)
    (h : s.registerStore i bytes = none) :
    harnessCall (.registerStore i bytes) s = .refused (.invalidRegisterIndex i) := by
  rw [harnessCall, if_neg (not_not_intro hphase)]
  simp only [h]

/-! ## A register stored and read back (80_host R312, R313) -/

/-- A value of the register's width is stored: `register_get` returns it, bit 7 of `sr` cleared, and the value of every
other index is as before. -/
theorem registerStore_readsBack (s : State) {i : Nat} {bytes : List Byte} (hi : i ≤ 18)
    (hlen : bytes.length = if i ≤ 16 then 1 else 2) :
    ∃ t, s.registerStore i bytes = some (bytes.length, t) ∧
      t.registerGet i = some (if i = 16 then bytes.map (· &&& 0x7F#8) else bytes) ∧
      ∀ j, j ≠ i → t.registerGet j = s.registerGet j := by
  obtain ⟨r, rfl⟩ | rfl | rfl | rfl := regNum_cases hi
  · obtain ⟨v, rfl⟩ := List.length_eq_one_iff.1 (hlen.trans (if_pos r.isLt.le))
    refine ⟨_, registerStore_general s r v, ?_,
      fun j hj => registerGet_congr (fun r' hr' => ?_) (fun _ => rfl) (fun _ => rfl) fun _ => rfl⟩
    · rw [registerGet_general, getReg_setReg_self, if_neg r.isLt.ne]
    · exact getReg_setReg_other s (fun e => hj (hr'.trans (congrArg _ e))) v
  · obtain ⟨v, rfl⟩ := List.length_eq_one_iff.1 hlen
    exact ⟨_, registerStore_sr s v, rfl,
      fun j hj => registerGet_congr (fun _ _ => rfl) (absurd · hj) (fun _ => rfl) fun _ => rfl⟩
  · obtain ⟨low, high, rfl⟩ := List.length_eq_two.1 hlen
    refine ⟨_, registerStore_sp s low high, ?_,
      fun j hj => registerGet_congr (fun _ _ => rfl) (fun _ => rfl) (absurd · hj) fun _ => rfl⟩
    simp [registerGet_sp, bytesOfWord]
  · obtain ⟨low, high, rfl⟩ := List.length_eq_two.1 hlen
    refine ⟨_, registerStore_pc s low high, ?_,
      fun j hj => registerGet_congr (fun _ _ => rfl) (fun _ => rfl) (fun _ => rfl) (absurd · hj)⟩
    simp [registerGet_pc, bytesOfWord]

theorem onlyRegisters_of_registerStore {s t : State} {i n : Nat} {bytes : List Byte}
    (h : s.registerStore i bytes = some (n, t)) : OnlyRegisters s t := by
  obtain rfl | ⟨r, v, rfl⟩ | ⟨v, rfl⟩ | ⟨v, rfl⟩ | ⟨v, rfl⟩ := registerStore_cases h <;>
    exact onlyRegisters_of_registers rfl

/-- Settles O52: the store changes one register alone, and the call answers its state with the width. -/
theorem storedRegistersReadBack : Obligations.StoredRegistersReadBack := by
  intro s i bytes hi hlen
  obtain ⟨t, hstore, hget, hothers⟩ := registerStore_readsBack s hi hlen
  obtain ⟨hmem, hcache, hcontrol, henv⟩ := onlyRegisters_of_registerStore hstore
  exact ⟨t, hstore, hget, hothers, hmem, hcache, hcontrol, henv, fun hphase => returns_registerStore hphase hstore⟩

/-! ## Stores that store nothing (80_host R312, R314) -/

/-- A byte list of another length than the register's width matches none of the patterns of `register_store`. -/
theorem registerStore_wrongLength (s : State) {i : Nat} {bytes : List Byte} (hi : i ≤ 18)
    (hlen : bytes.length ≠ if i ≤ 16 then 1 else 2) : s.registerStore i bytes = some (0, s) := by
  obtain ⟨r, rfl⟩ | rfl | rfl | rfl := regNum_cases hi
  · rw [if_pos r.isLt.le] at hlen
    refine (if_pos r.isLt).trans ?_
    match bytes, hlen with
    | [], _ | _ :: _ :: _, _ => rfl
    | [_], hone => exact absurd rfl hone
  · match bytes, hlen with
    | [], _ | _ :: _ :: _, _ => rfl
    | [_], hone => exact absurd rfl hone
  all_goals
    match bytes, hlen with
    | [], _ | [_], _ | _ :: _ :: _ :: _, _ => rfl
    | [_, _], htwo => exact absurd rfl htwo

/-- Settles O53: a wrong length stores nothing, and above 18 there is no register to read or store. -/
theorem harnessRegisterErrors : Obligations.HarnessRegisterErrors := by
  intro s i bytes
  refine ⟨fun hi hlen => ?wrongLength, fun hi hphase => ?above⟩
  case wrongLength =>
    have hstore := registerStore_wrongLength s hi hlen
    exact ⟨hstore, fun hphase => returns_registerStore hphase hstore⟩
  case above =>
    exact ⟨harnessCall_registerGet_refused hphase (registerGet_above hi s),
      harnessCall_registerStore_refused hphase (registerStore_above hi s bytes)⟩

/-! ## The bytes that the harness reads (80_host R312, R316) -/

/-- A 16-bit register is the number that its two bytes, the low one first, stand for. -/
theorem toNat_eq_bytes (v : Word16) : v.toNat = 256 * (v.extractLsb' 8 8).toNat + (v.extractLsb' 0 8).toNat := by
  rw [← toNat_wordOfBytes, wordOfBytes_extract]

theorem length_bulkRead (s : State) (addr n : Nat) : (s.bulkRead addr n).length = n := by
  rw [State.bulkRead, readBytes_eq_map, List.length_map, List.length_range]

theorem bulkRead_getElem? (s : State) (addr : Nat) {n j : Nat} (hj : j < n) :
    (s.bulkRead addr n)[j]? = some (s.byteAt (mask (addr + j))) := by
  rw [State.bulkRead, readBytes_eq_map, List.getElem?_map, List.getElem?_range hj, mask_add]
  rfl

/-- Settles O54: each read is recorded as the reply, and nothing else happens. -/
theorem harnessReadsReturnTheBytes : Obligations.HarnessReadsReturnTheBytes := by
  intro s hphase
  refine ⟨fun r => returns_registerGet hphase (registerGet_general s r), returns_registerGet hphase (registerGet_sr s),
    ⟨_, _, returns_registerGet hphase (registerGet_sp s), toNat_eq_bytes s.sp⟩,
    ⟨_, _, returns_registerGet hphase (registerGet_pc s), toNat_eq_bytes s.pc⟩,
    fun addr n => ⟨_, returns_memoryRead hphase addr n, length_bulkRead s addr n, fun j hj => ?byte⟩⟩
  case byte => rw [bulkRead_getElem? s addr hj, mask_eq]

/-! ## Bytes written in bulk and read back (80_host R315, R316) -/

theorem harnessCall_memoryWrite {s : State} (hphase : s.phase = .halted) (addr : Nat) (bytes : List Byte) :
    harnessCall (.memoryWrite addr bytes) s = .next (s.bulkWrite addr bytes) := if_neg (not_not_intro hphase)

theorem harnessCall_load {s : State} (hphase : s.phase = .halted) (base : Nat) (bytes : List Byte) :
    harnessCall (.load base bytes) s = .next (s.bulkWrite base bytes) := if_neg (not_not_intro hphase)

/-- Bytes written in bulk, no more than memory holds, cover no address twice and so are read back. -/
theorem bulkRead_bulkWrite (s : State) (base : Nat) {bytes : List Byte} (hfits : bytes.length ≤ 65536) :
    (s.bulkWrite base bytes).bulkRead base bytes.length = bytes := by
  refine List.ext_getElem? fun j => ?_
  by_cases hj : j < bytes.length
  · have hoffset : (mask (base + j) - mask base).toNat = j := mask_add base j ▸ offset_add (by omega)
    rw [bulkRead_getElem? _ base hj, State.bulkWrite,
      byteAt_writeBytes_inside bytes s _ _ (hoffset.symm ▸ hj) hfits, hoffset, List.getElem?_eq_getElem hj,
      Option.getD_some]
  · rw [List.getElem?_eq_none (Nat.le_of_not_lt hj),
      List.getElem?_eq_none (by rw [length_bulkRead]; exact Nat.le_of_not_lt hj)]

/-- Settles O55: both calls are the one bulk write, which changes memory and cache alone. -/
theorem bulkWritesReadBack : Obligations.BulkWritesReadBack := by
  intro s base bytes hphase hfits
  have hsame : SameButMemory s (s.bulkWrite base bytes) := writeBytes_same bytes s _
  simp only [mask_add]
  exact ⟨_, harnessCall_memoryWrite hphase base bytes, harnessCall_load hphase base bytes,
    bulkRead_bulkWrite s base hfits, sameMemoryBut_writeBytes s _ bytes, slotsEmptied_writeBytes bytes s _,
    fun r => congrArg (·[r.toNat]'r.isLt) hsame.regs, hsame.sr, hsame.sp, hsame.pc,
    ⟨hsame.cycles, hsame.phase, hsame.halt, hsame.pollCount, hsame.stopRequest, hsame.loaded⟩, hsame.env⟩

end Sys2Proof.Proofs
